-- ==== Sys2Proof/Word.lean ====
section
/-! DEFINITION. The value types of the block: unsigned bit vectors of the widths the spec states (00_scope.md R5, R6),
and the level of one line or flag. -/

namespace Sys2Proof

/-- A 16-bit word: the frame width `W` of 00_scope.md R5 (`receive`, `value`, `old_value`, `t`, `OCR`). -/
abbrev Word := BitVec 16

/-- One byte: the width `ATOM_W` of one indivisible write to `OCR`, and the width of an operation code
(00_scope.md R5, 30_encoding.md R64). -/
abbrev Byte := BitVec 8

/-- The 5-bit counter type of `bits` (10_state.md R12, `BITS_W` of 00_scope.md R5). -/
abbrev Count := BitVec 5

/-- The level of a line or the value of a 1-bit flag: `true` is 1, `false` is 0. An input has no other level
(70_reset_and_hazards.md R204). -/
abbrev Level := Bool

end Sys2Proof
end

