-- ==== Sys2Proof/Config.lean ====
section
/-! DEFINITION. The implementation parameters of 00_scope.md R5: the fixed ones as constants, the configurable ones as
the structure `Config`, one value of which describes one machine. -/

namespace Sys2Proof

/-- `CS_ACTIVE`: the level of `CS_N` that means asserted (00_scope.md R5, fixed). -/
def csActive : Level := false

/-- `TOP`: the timer's top value; informative, no operation reads it (00_scope.md R5). -/
def timerTop : Word := 0x3FFF

/-- The number of bits of a frame, as the value the counter `bits` holds when the frame is complete
(00_scope.md R5, `W`). -/
def fullCount : Count := 16

/-- `CS_SENSE`: which edges of `CS_N` request the Frame Latch (00_scope.md R5, 92_eei_decisions.md D2). -/
inductive CsSense where
  /-- the release edge only -/
  | release
  /-- both edges -/
  | any
deriving DecidableEq, Repr

/-- `PRIO`: the arbitration among simultaneously pending sources: `ANY`, or one of the six permutations of
(SCK, CS, TOV), first source first (00_scope.md R5, 60_exceptions.md R157). -/
inductive Prio where
  | any
  | sckCsTov
  | sckTovCs
  | csSckTov
  | csTovSck
  | tovSckCs
  | tovCsSck
deriving DecidableEq, Repr

/-- `PIN0`: the three pin levels at power-on (00_scope.md R5). -/
structure PinLevels where
  sdi : Level
  sck : Level
  csN : Level
deriving DecidableEq, Repr

/-- The configurable parameters of 00_scope.md R5. No operation changes them: they are constants of one machine.
State carries one value of this type, so that a statement over all states is a statement over all parameters
(DESIGN CHOICE, log 1; safe). -/
structure Config where
  /-- `RESET_ON_DISCARD`: a discarding Frame Latch clears `receive` and `bits` -/
  resetOnDiscard : Bool
  csSense : CsSense
  /-- `NESTING`: a dispatch leaves `GIE` at 1 -/
  nesting : Bool
  prio : Prio
  pin0 : PinLevels
deriving DecidableEq, Repr

/-- The default of every configurable parameter, as the table of 00_scope.md R5 gives it. -/
def Config.default : Config where
  resetOnDiscard := false
  csSense := .release
  nesting := false
  prio := .any
  pin0 := { sdi := false, sck := false, csN := true }

end Sys2Proof
end

