-- ==== Sys2Proof/Syntax.lean ====
section
/-! DEFINITION. The operations of the block: the three interrupt sources, the nine micro-operations, and `Instr`, one
constructor per row of spec/opcode_table.json (30_encoding.md R66); the pseudo-operations of 30_encoding.md R70. -/

namespace Sys2Proof

/-- The three interrupt sources (60_exceptions.md R152). -/
inductive Source where
  | sck
  | cs
  | tov
deriving DecidableEq, Repr

/-- The nine micro-operations a frame on `ctx` can stand at (10_state.md R23). -/
inductive Micro where
  | rxbit
  | flatch
  | ucmp
  | wsave
  | wcli
  | whi
  | wlo
  | wrest
  | urec
deriving DecidableEq, Repr

/-- The operations, one constructor per row of spec/opcode_table.json (30_encoding.md R66). -/
inductive Instr where
  /-- reset of the block (70_reset_and_hazards.md R190) -/
  | reset
  /-- bring-up complete (70_reset_and_hazards.md R191) -/
  | start
  /-- the master drives the data line (40_environment_events.md R80) -/
  | sdi (l : Level)
  /-- the master drives the clock line (40_environment_events.md R81) -/
  | sck (l : Level)
  /-- the master drives the chip-select line (40_environment_events.md R82) -/
  | csn (l : Level)
  /-- the timer overflows (40_environment_events.md R83) -/
  | tov
  /-- dispatch of source SCK (60_exceptions.md R156) -/
  | irqSck
  /-- dispatch of source CS (60_exceptions.md R156) -/
  | irqCs
  /-- dispatch of source TOV (60_exceptions.md R156) -/
  | irqTov
  /-- Bit Receiver body (41_bit_receiver.md R100) -/
  | rxbit
  /-- Frame Latch body (42_frame_latch.md R110) -/
  | flatch
  /-- Output Updater: snapshot and compare (43_output_updater.md R121) -/
  | ucmp
  /-- PWM Register Writer: save `GIE` (44_pwm_register_writer.md R131) -/
  | wsave
  /-- PWM Register Writer: disable interrupts (44_pwm_register_writer.md R132) -/
  | wcli
  /-- PWM Register Writer: write the high byte (44_pwm_register_writer.md R133) -/
  | whi
  /-- PWM Register Writer: write the low byte (44_pwm_register_writer.md R134) -/
  | wlo
  /-- PWM Register Writer: restore `GIE` (44_pwm_register_writer.md R135) -/
  | wrest
  /-- Output Updater: record the applied value (43_output_updater.md R122) -/
  | urec
deriving DecidableEq, Repr

/-- The operation that dispatches a source (30_encoding.md R65). -/
def Source.instr : Source → Instr
  | .sck => .irqSck
  | .cs => .irqCs
  | .tov => .irqTov

/-- The operation that executes a micro-operation (10_state.md R23). -/
def Micro.instr : Micro → Instr
  | .rxbit => .rxbit
  | .flatch => .flatch
  | .ucmp => .ucmp
  | .wsave => .wsave
  | .wcli => .wcli
  | .whi => .whi
  | .wlo => .wlo
  | .wrest => .wrest
  | .urec => .urec

/-- The source whose handler a micro-operation belongs to: the frame of the Bit Receiver, of the Frame Latch or of the
Output Updater (10_state.md R24). -/
def Micro.handler : Micro → Source
  | .rxbit => .sck
  | .flatch => .cs
  | .ucmp | .wsave | .wcli | .whi | .wlo | .wrest | .urec => .tov

/-- The entry micro-operation of a source's handler (60_exceptions.md R152). -/
def Source.entry : Source → Micro
  | .sck => .rxbit
  | .cs => .flatch
  | .tov => .ucmp

/-- Who performs an operation (30_encoding.md R66, column Agent). -/
inductive Agent where
  | env
  | blk
deriving DecidableEq, Repr

/-- The agent of each operation (30_encoding.md R66). -/
def Instr.agent : Instr → Agent
  | .reset | .start | .sdi _ | .sck _ | .csn _ | .tov => .env
  | .irqSck | .irqCs | .irqTov => .blk
  | .rxbit | .flatch | .ucmp | .wsave | .wcli | .whi | .wlo | .wrest | .urec => .blk

/-- The pseudo-operations of 30_encoding.md R70 that a script may hold, beside the operations themselves. -/
inductive Pseudo where
  | op (i : Instr)
  | settle
  /-- `clk d` -/
  | clk (d : Level)
  /-- `clkn n w`: the low `n` bits of `w`, the highest of them first -/
  | clkn (n : Nat) (w : Word)
  /-- `frame w` -/
  | frame (w : Word)
  | tick
  | boot
deriving DecidableEq, Repr

end Sys2Proof
end

