-- ==== Sys2Proof/Machine/State.lean ====
section
/-! DEFINITION. The machine state of 10_state.md R10, the reasons a step can stop, power-on and reset. -/

namespace Sys2Proof.Machine

/-- The complete machine state: the record of 10_state.md R10, then three groups the spec does not count as state: the
parameters of the machine instance (log 1), and the trace the machine is driven by (log 2). -/
@[ext]
structure State where
  /-- accumulator of the frame in progress (10_state.md R11) -/
  receive : Word
  /-- count of bits received in the frame in progress (10_state.md R12) -/
  bits : Count
  /-- the most recently completed frame (10_state.md R13) -/
  value : Word
  /-- `old_value`: the last value applied to `OCR` (10_state.md R14) -/
  oldValue : Word
  /-- the Output Updater's snapshot of `value` (10_state.md R15) -/
  t : Word
  /-- the PWM Register Writer's saved copy of `GIE` (10_state.md R16) -/
  sv : Level
  /-- `OCRH`: high byte of the compare register (10_state.md R17) -/
  ocrh : Byte
  /-- `OCRL`: low byte of the compare register (10_state.md R17) -/
  ocrl : Byte
  /-- `GIE`: global interrupt enable (10_state.md R18) -/
  gie : Level
  /-- `PF_SCK`: source SCK has a request not yet dispatched (10_state.md R19) -/
  pfSck : Level
  /-- `PF_CS` (10_state.md R19) -/
  pfCs : Level
  /-- `PF_TOV` (10_state.md R19) -/
  pfTov : Level
  /-- `STARTED`: bring-up complete (10_state.md R20) -/
  started : Level
  /-- level of the serial data line (10_state.md R22) -/
  sdi : Level
  /-- level of the serial clock line (10_state.md R22) -/
  sck : Level
  /-- level of the chip-select line, 0 = asserted (10_state.md R22) -/
  csN : Level
  /-- the context stack, TOP FIRST; its top is the micro-program counter (10_state.md R23; order: log 7) -/
  ctx : List Micro
  /-- the parameters of this machine (00_scope.md R5); no operation writes them (log 1) -/
  cfg : Config
  /-- THE MODEL'S OWN: the operation codes still to run, the next one first (log 2) -/
  trace : List Byte
  /-- THE MODEL'S OWN: the position in the whole trace of the next code (log 2) -/
  pos : Nat
deriving DecidableEq, Repr

/-- The three input pins (10_state.md R22). -/
inductive Pin where
  | sdi
  | sck
  | csN
deriving DecidableEq, Repr

/-- The two I/O cells (20_memory.md R40). -/
inductive IoCell where
  | ocrh
  | ocrl
deriving DecidableEq, Repr

/-- The block raises no exception and has no fault state (60_exceptions.md R150): nobody raises a fault, and there is no
constructor. Safe: no step of the model ends in a fault. -/
inductive Fault where
deriving DecidableEq, Repr

/-- Why a step is refused. Both refusals are the spec's own; a run is never refused on ordinary data. -/
inductive Refusal where
  /-- Raised by an arm of `exec` whose instruction has no meaning yet; no arm of this model raises it. Safe. -/
  | notModelled (mnemonic : String)
  /-- Raised by `step` on a reserved operation code: the trace is not a trace of this machine; it names the position
  (30_encoding.md R67, 93_implementation_defined.md U7). Safe. -/
  | reservedCode (pos : Nat) (code : Byte)
  /-- Raised by an operation that is not enabled in the state: the trace is not valid (30_encoding.md R68,
  93_implementation_defined.md U8); it names the position. Safe. -/
  | notEnabled (pos : Nat) (op : Instr)
deriving DecidableEq, Repr

/-- Power-on of the machine with the given parameters: the reset values of 10_state.md R30 and the pin levels `PIN0`,
with an empty trace. -/
def State.powerOn (cfg : Config) : State where
  receive := 0
  bits := 0
  value := 0
  oldValue := 0
  t := 0
  sv := false
  ocrh := 0
  ocrl := 0
  gie := false
  pfSck := false
  pfCs := false
  pfTov := false
  started := false
  sdi := cfg.pin0.sdi
  sck := cfg.pin0.sck
  csN := cfg.pin0.csN
  ctx := []
  cfg := cfg
  trace := []
  pos := 0

/-- The machine right after power-on with the default parameters (10_state.md R30, 00_scope.md R5; log 6). -/
def State.reset : State := State.powerOn Config.default

end Sys2Proof.Machine
end

