-- ==== Sys2Proof/Machine/Operands.lean ====
section
/-! DEFINITION. The operands of the operations: pins, I/O cells, the halves of a word, the shift of one bit into the
accumulator (00_scope.md R6, R7; 20_memory.md R40, R41). -/

namespace Sys2Proof.Machine

/-- `PinRead(p)`: the current level of a pin; a pure read (00_scope.md R7, 20_memory.md R45). -/
def pinRead (p : Pin) (s : State) : Level :=
  match p with
  | .sdi => s.sdi
  | .sck => s.sck
  | .csN => s.csN

/-- The environment's write of a pin-level register (10_state.md R22). -/
def pinWrite (p : Pin) (l : Level) (s : State) : State :=
  match p with
  | .sdi => { s with sdi := l }
  | .sck => { s with sck := l }
  | .csN => { s with csN := l }

/-- `MemRead(c, 1)`: the byte in an I/O cell; only observers read cells (00_scope.md R7, 20_memory.md R40). -/
def memRead (c : IoCell) (s : State) : Byte :=
  match c with
  | .ocrh => s.ocrh
  | .ocrl => s.ocrl

/-- `MemWrite(c, 1, v)`: the byte lands in the cell at once and has no other effect (20_memory.md R40, R45). -/
def memWrite (c : IoCell) (v : Byte) (s : State) : State :=
  match c with
  | .ocrh => { s with ocrh := v }
  | .ocrl => { s with ocrl := v }

/-- Bits 15 to 8 of a word (20_memory.md R41). -/
def highByte (w : Word) : Byte := w.extractLsb' 8 8

/-- Bits 7 to 0 of a word (20_memory.md R41). -/
def lowByte (w : Word) : Byte := w.extractLsb' 0 8

/-- The concatenation of a high and a low byte (00_scope.md R6, 20_memory.md R41). -/
def joinBytes (h l : Byte) : Word := h ++ l

/-- `OCR = OCRH * 256 + OCRL`, the compare register as a 16-bit observer reads it (10_state.md R17). -/
def ocr (s : State) : Word := joinBytes s.ocrh s.ocrl

/-- A 1-bit level extended with zero bits to a word (00_scope.md R6). -/
def levelWord (l : Level) : Word := BitVec.zeroExtend 16 (BitVec.ofBool l)

/-- The accumulator moved up by one bit, truncated to 16 bits, with a level as its new bit 0 (41_bit_receiver.md R100). -/
def shiftIn (w : Word) (d : Level) : Word := (w <<< 1) ||| levelWord d

end Sys2Proof.Machine
end

