-- ==== Sys2Proof/Machine/Flags.lean ====
section
/-! DEFINITION. The flags: pending flags and what sets them (the edge detectors), the enabling and the priority of
sources (10_state.md R18 to R20, 60_exceptions.md R152 to R160). -/

namespace Sys2Proof.Machine

/-- The pending flag of a source (10_state.md R19). -/
def pending (x : Source) (s : State) : Level :=
  match x with
  | .sck => s.pfSck
  | .cs => s.pfCs
  | .tov => s.pfTov

/-- Writes the pending flag of a source (10_state.md R19). -/
def writePending (x : Source) (v : Level) (s : State) : State :=
  match x with
  | .sck => { s with pfSck := v }
  | .cs => { s with pfCs := v }
  | .tov => { s with pfTov := v }

/-- A request of a source, made when its event occurs: its pending flag becomes 1 if the block is started, whatever it was;
before START the request is lost (60_exceptions.md R153, 40_environment_events.md R86). -/
def request (x : Source) (occurs : Bool) (s : State) : State :=
  writePending x (pending x s || (occurs && s.started)) s

/-- The rising-edge detector of `SCK` (40_environment_events.md R81). -/
def risingEdge (old new : Level) : Bool := !old && new

/-- The release edge of `CS_N`: asserted before, not asserted after (40_environment_events.md R82). -/
def releaseEdge (old new : Level) : Bool := old == csActive && new != csActive

/-- The asserting edge of `CS_N` (40_environment_events.md R82). -/
def assertEdge (old new : Level) : Bool := old != csActive && new == csActive

/-- The edges of `CS_N` that request the Frame Latch under a setting of `CS_SENSE` (40_environment_events.md R82). -/
def chipSelectRequests (sense : CsSense) (old new : Level) : Bool :=
  releaseEdge old new || (sense == .any && assertEdge old new)

/-- `ctx` holds a frame of the handler of this source (10_state.md R24). -/
def hasFrame (x : Source) (s : State) : Bool := s.ctx.any fun m => m.handler == x

/-- Conditions (c) and (d) of 60_exceptions.md R156: the source is pending and its handler is not on `ctx`. -/
def waiting (x : Source) (s : State) : Bool := pending x s && !hasFrame x s

/-- A source is dispatchable (60_exceptions.md R155). -/
def dispatchable (x : Source) (s : State) : Bool := s.started && s.gie && waiting x s

/-- The order in which a setting of `PRIO` lists the sources; under `ANY` the order of `settle` (60_exceptions.md R157,
R162; log 4). -/
def prioOrder : Prio → List Source
  | .any => [.sck, .cs, .tov]
  | .sckCsTov => [.sck, .cs, .tov]
  | .sckTovCs => [.sck, .tov, .cs]
  | .csSckTov => [.cs, .sck, .tov]
  | .csTovSck => [.cs, .tov, .sck]
  | .tovSckCs => [.tov, .sck, .cs]
  | .tovCsSck => [.tov, .cs, .sck]

/-- The sources that come before a source in `PRIO`; none under `ANY` (60_exceptions.md R156 (e)). -/
def earlierSources (p : Prio) (x : Source) : List Source :=
  if p = .any then [] else (prioOrder p).takeWhile fun y => y != x

/-- Condition (e) of 60_exceptions.md R156: no earlier source is waiting. -/
def prioAllows (x : Source) (s : State) : Bool :=
  (earlierSources s.cfg.prio x).all fun y => !waiting y s

/-- The enabling condition of IRQ: (a) to (e) of 60_exceptions.md R156. -/
def irqEnabled (x : Source) (s : State) : Bool := dispatchable x s && prioAllows x s

end Sys2Proof.Machine
end

