-- ==== Sys2Proof/Machine/Ops.lean ====
section
/-! DEFINITION. The shared operations: the enabling conditions of 30_encoding.md R68, the micro-program counter, taking an
interrupt and returning from a handler (60_exceptions.md R156, R158), and how an operation that is not enabled is refused. -/

namespace Sys2Proof.Machine

/-- The next micro-operation of the running handler is `m` (10_state.md R23). -/
def atTop (m : Micro) (s : State) : Bool := s.ctx.head? == some m

/-- The enabling condition of every operation (30_encoding.md R68). -/
def enabled (i : Instr) (s : State) : Bool :=
  match i with
  | .reset | .sdi _ | .sck _ | .csn _ | .tov => true
  | .start => !s.started
  | .irqSck => irqEnabled .sck s
  | .irqCs => irqEnabled .cs s
  | .irqTov => irqEnabled .tov s
  | .rxbit => atTop .rxbit s
  | .flatch => atTop .flatch s
  | .ucmp => atTop .ucmp s
  | .wsave => atTop .wsave s
  | .wcli => atTop .wcli s
  | .whi => atTop .whi s
  | .wlo => atTop .wlo s
  | .wrest => atTop .wrest s
  | .urec => atTop .urec s

/-- An operation has its effect where it is enabled and is refused elsewhere (30_encoding.md R68: a trace with an operation
that is not enabled is refused, not faulted). -/
def guarded (i : Instr) (s t : State) : Host.Outcome State Fault Refusal :=
  if enabled i s then .next t else .refused (.notEnabled s.pos i)

/-- `pc <- OP`: the top frame goes on at `m` (00_scope.md R7). -/
def setPc (m : Micro) (s : State) : State := { s with ctx := m :: s.ctx.tail }

/-- `push OP` (00_scope.md R7). -/
def pushFrame (m : Micro) (s : State) : State := { s with ctx := m :: s.ctx }

/-- Taking an interrupt, the one entry all three sources share (60_exceptions.md R156): the pending flag is cleared, the
entry micro-operation of the handler is pushed (the interrupted handler's position stays below it), and `GIE` is cleared
unless `NESTING`. -/
def takeInterrupt (x : Source) (s : State) : State :=
  let s := pushFrame x.entry (writePending x false s)
  if s.cfg.nesting then s else { s with gie := false }

/-- `return`, the end of a handler: the top frame is removed and `GIE` becomes 1 (60_exceptions.md R158). -/
def handlerReturn (s : State) : State := { s with ctx := s.ctx.tail, gie := true }

/-- The outcome with its next state changed by `f`. -/
def mapNext (f : State → State) : Host.Outcome State Fault Refusal → Host.Outcome State Fault Refusal
  | .next s => .next (f s)
  | .fault r => .fault r
  | .refused r => .refused r

end Sys2Proof.Machine
end

