-- ==== Sys2Proof/Machine/BitReceiver.lean ====
section
/-! DEFINITION. The Bit Receiver: RXBIT (41_bit_receiver.md R100). -/

namespace Sys2Proof.Machine

/-- The Bit Receiver takes a bit: chip-select is asserted now and the frame is not full (41_bit_receiver.md R100). -/
def acceptsBit (s : State) : Bool := pinRead .csN s == csActive && decide (s.bits < fullCount)

/-- One bit shifted into the accumulator and counted, if it is accepted; else nothing (41_bit_receiver.md R100). -/
def receiveBit (s : State) : State :=
  if acceptsBit s then { s with receive := shiftIn s.receive (pinRead .sdi s), bits := s.bits + 1 } else s

/-- RXBIT (41_bit_receiver.md R100). -/
def execRxbit (s : State) : Host.Outcome State Fault Refusal :=
  guarded .rxbit s (handlerReturn (receiveBit s))

end Sys2Proof.Machine
end

