-- ==== Sys2Proof/Machine/Environment.lean ====
section
/-! DEFINITION. The environment operations on the lines and the timer's overflow (40_environment_events.md R80 to R83). -/

namespace Sys2Proof.Machine

/-- `SDI l`: the data line's level; it requests nothing (40_environment_events.md R80). -/
def execSdi (l : Level) (s : State) : Host.Outcome State Fault Refusal :=
  guarded (.sdi l) s (pinWrite .sdi l s)

/-- `SCK l`: a rising edge requests the Bit Receiver, whatever `CS_N` is (40_environment_events.md R81). -/
def execSck (l : Level) (s : State) : Host.Outcome State Fault Refusal :=
  guarded (.sck l) s (pinWrite .sck l (request .sck (risingEdge (pinRead .sck s) l) s))

/-- `CSN l`: a release, and under `CS_SENSE = ANY` an assertion, requests the Frame Latch (40_environment_events.md R82). -/
def execCsn (l : Level) (s : State) : Host.Outcome State Fault Refusal :=
  guarded (.csn l) s
    (pinWrite .csN l (request .cs (chipSelectRequests s.cfg.csSense (pinRead .csN s) l) s))

/-- `TOV`: an overflow requests the Output Updater; overflows are not counted (40_environment_events.md R83). -/
def execTov (s : State) : Host.Outcome State Fault Refusal :=
  guarded .tov s (request .tov true s)

end Sys2Proof.Machine
end

