-- ==== Sys2Proof/Machine/FrameLatch.lean ====
section
/-! DEFINITION. The Frame Latch: FLATCH (42_frame_latch.md R110, R111). -/

namespace Sys2Proof.Machine

/-- The accumulator and the counter cleared (42_frame_latch.md R110). -/
def clearFrame (s : State) : State := { s with receive := 0, bits := 0 }

/-- Exactly 16 bits: the word is published and the receiver cleared. Any other count: discarded, that is not latched; the
partial frame is cleared only under `RESET_ON_DISCARD`. `CS_N` is not read (42_frame_latch.md R110, R111, R113). -/
def latchFrame (s : State) : State :=
  if s.bits = fullCount then clearFrame { s with value := s.receive }
  else if s.cfg.resetOnDiscard then clearFrame s
  else s

/-- FLATCH (42_frame_latch.md R110). -/
def execFlatch (s : State) : Host.Outcome State Fault Refusal :=
  guarded .flatch s (handlerReturn (latchFrame s))

end Sys2Proof.Machine
end

