-- ==== Sys2Proof/Machine/Interrupts.lean ====
section
/-! DEFINITION. IRQ: dispatch of a pending source to its handler (60_exceptions.md R156), one meaning per source. -/

namespace Sys2Proof.Machine

/-- `IRQ SCK`: enters the Bit Receiver (60_exceptions.md R156). -/
def execIrqSck (s : State) : Host.Outcome State Fault Refusal := guarded .irqSck s (takeInterrupt .sck s)

/-- `IRQ CS`: enters the Frame Latch (60_exceptions.md R156). -/
def execIrqCs (s : State) : Host.Outcome State Fault Refusal := guarded .irqCs s (takeInterrupt .cs s)

/-- `IRQ TOV`: enters the Output Updater (60_exceptions.md R156). -/
def execIrqTov (s : State) : Host.Outcome State Fault Refusal := guarded .irqTov s (takeInterrupt .tov s)

end Sys2Proof.Machine
end

