-- ==== Sys2Proof/Machine/OutputUpdater.lean ====
section
/-! DEFINITION. The Output Updater: UCMP and UREC (43_output_updater.md R121, R122). -/

namespace Sys2Proof.Machine

/-- `value` is read once into `t`; equal to `old_value` the handler returns, else it goes on at the PWM Register Writer
(43_output_updater.md R121). -/
def compareValue (s : State) : State :=
  let s := { s with t := s.value }
  if s.t = s.oldValue then handlerReturn s else setPc .wsave s

/-- UCMP (43_output_updater.md R121). -/
def execUcmp (s : State) : Host.Outcome State Fault Refusal := guarded .ucmp s (compareValue s)

/-- UREC: the applied word is recorded and the handler returns (43_output_updater.md R122). -/
def execUrec (s : State) : Host.Outcome State Fault Refusal :=
  guarded .urec s (handlerReturn { s with oldValue := s.t })

end Sys2Proof.Machine
end

