-- ==== Sys2Proof/Machine/PwmWriter.lean ====
section
/-! DEFINITION. The PWM Register Writer: WSAVE, WCLI, WHI, WLO, WREST (44_pwm_register_writer.md R130 to R135). -/

namespace Sys2Proof.Machine

/-- WSAVE: `GIE` is saved (44_pwm_register_writer.md R131). -/
def execWsave (s : State) : Host.Outcome State Fault Refusal :=
  guarded .wsave s (setPc .wcli { s with sv := s.gie })

/-- WCLI: interrupts are disabled; pending flags are kept (44_pwm_register_writer.md R132). -/
def execWcli (s : State) : Host.Outcome State Fault Refusal :=
  guarded .wcli s (setPc .whi { s with gie := false })

/-- WHI: the high half of `t` lands in `OCRH` (44_pwm_register_writer.md R133, R140). -/
def execWhi (s : State) : Host.Outcome State Fault Refusal :=
  guarded .whi s (setPc .wlo (memWrite .ocrh (highByte s.t) s))

/-- WLO: the low half of `t` lands in `OCRL` (44_pwm_register_writer.md R134, R140). -/
def execWlo (s : State) : Host.Outcome State Fault Refusal :=
  guarded .wlo s (setPc .wrest (memWrite .ocrl (lowByte s.t) s))

/-- WREST: the saved enable is restored, not set (44_pwm_register_writer.md R135). -/
def execWrest (s : State) : Host.Outcome State Fault Refusal :=
  guarded .wrest s (setPc .urec { s with gie := s.sv })

end Sys2Proof.Machine
end

