-- ==== Sys2Proof/Machine/ResetStart.lean ====
section
/-! DEFINITION. RESET and START (70_reset_and_hazards.md R190, R191). -/

namespace Sys2Proof.Machine

/-- RESET: every register, flag, cell and the context stack at the reset values; the pins keep their levels, being driven
from outside (70_reset_and_hazards.md R190). -/
def resetEffect (s : State) : State :=
  { s with
    receive := 0, bits := 0, value := 0, oldValue := 0, t := 0, sv := false
    ocrh := 0, ocrl := 0
    gie := false, pfSck := false, pfCs := false, pfTov := false, started := false
    ctx := [] }

/-- RESET (70_reset_and_hazards.md R190). -/
def execReset (s : State) : Host.Outcome State Fault Refusal := guarded .reset s (resetEffect s)

/-- START: bring-up complete, interrupts unmasked and enabled; no edge is inferred from the pin levels
(70_reset_and_hazards.md R191). -/
def execStart (s : State) : Host.Outcome State Fault Refusal :=
  guarded .start s { s with started := true, gie := true }

end Sys2Proof.Machine
end

