-- ==== Sys2Proof/Machine/Dispatch.lean ====
section
/-! DEFINITION. The meaning of every operation, one arm per constructor (30_encoding.md R66). -/

namespace Sys2Proof.Machine

def exec (i : Instr) (s : State) : Host.Outcome State Fault Refusal :=
  match i with
  | .reset => Sys2Proof.Machine.execReset s
  | .start => Sys2Proof.Machine.execStart s
  | .sdi l => Sys2Proof.Machine.execSdi l s
  | .sck l => Sys2Proof.Machine.execSck l s
  | .csn l => Sys2Proof.Machine.execCsn l s
  | .tov => Sys2Proof.Machine.execTov s
  | .irqSck => Sys2Proof.Machine.execIrqSck s
  | .irqCs => Sys2Proof.Machine.execIrqCs s
  | .irqTov => Sys2Proof.Machine.execIrqTov s
  | .rxbit => Sys2Proof.Machine.execRxbit s
  | .flatch => Sys2Proof.Machine.execFlatch s
  | .ucmp => Sys2Proof.Machine.execUcmp s
  | .wsave => Sys2Proof.Machine.execWsave s
  | .wcli => Sys2Proof.Machine.execWcli s
  | .whi => Sys2Proof.Machine.execWhi s
  | .wlo => Sys2Proof.Machine.execWlo s
  | .wrest => Sys2Proof.Machine.execWrest s
  | .urec => Sys2Proof.Machine.execUrec s

end Sys2Proof.Machine
end

