-- ==== Sys2Proof/WellFormed.lean ====
section
/-! DEFINITION. What is well formed: an operation code (30_encoding.md R67, the reserved ranges), a pseudo-operation's
arguments (30_encoding.md R70), a context stack (10_state.md R24). Every term of `Instr` is well formed: its only operands
are levels, and a level is 0 or 1 (30_encoding.md R65); the reserved source number 11 is no constructor. -/

namespace Sys2Proof

/-- The reserved codes, range by range as 30_encoding.md R67 lists them (first code, last code). -/
def reservedRanges : List (Nat × Nat) :=
  [(0x02, 0x0F), (0x12, 0x1F), (0x22, 0x2F), (0x32, 0x3F), (0x41, 0x7F), (0x83, 0x83), (0x84, 0x8F), (0x99, 0x9F),
   (0xA0, 0xFF)]

/-- A code is reserved when it lies in a range of 30_encoding.md R67. -/
def reservedCode (c : Byte) : Bool :=
  reservedRanges.any fun r => r.1 ≤ c.toNat && c.toNat ≤ r.2

/-- A sequence of codes is well formed when none of them is reserved (30_encoding.md R67). -/
def codesWf (cs : List Byte) : Bool :=
  cs.all fun c => !reservedCode c

/-- The well-formedness of an operation: both levels of `SDI`, `SCK`, `CSN` are legal operands and no other operation has
an operand (30_encoding.md R65), so every term is well formed. -/
def Instr.wf : Instr → Bool
  | .reset | .start | .tov => true
  | .sdi _ | .sck _ | .csn _ => true
  | .irqSck | .irqCs | .irqTov => true
  | .rxbit | .flatch | .ucmp | .wsave | .wcli | .whi | .wlo | .wrest | .urec => true

/-- The arguments 30_encoding.md R70 allows: `clkn n w` needs `1 <= n <= 16` and an `n`-bit value. -/
def Pseudo.wf : Pseudo → Bool
  | .op i => i.wf
  | .settle | .clk _ | .frame _ | .tick | .boot => true
  | .clkn n w => decide (1 ≤ n) && decide (n ≤ 16) && decide (w.toNat < 2 ^ n)

/-- A well-formed context stack holds at most one frame of each handler (10_state.md R24). -/
def ctxWf (ctx : List Micro) : Bool :=
  decide (ctx.map Micro.handler).Nodup

end Sys2Proof
end

