-- ==== Sys2Proof/Decode.lean ====
section
/-! DEFINITION. The decoder of operation codes (30_encoding.md R66, R67), the encoder, whole traces, and the textual
syntax of traces (30_encoding.md R69). -/

namespace Sys2Proof

/-- The micro-operation of a number (10_state.md R23: the low nibble of its code). -/
def microOfNumber : Nat → Option Micro
  | 0 => some .rxbit
  | 1 => some .flatch
  | 2 => some .ucmp
  | 3 => some .wsave
  | 4 => some .wcli
  | 5 => some .whi
  | 6 => some .wlo
  | 7 => some .wrest
  | 8 => some .urec
  | _ => none

/-- The source of a source number `ss`; 11 is reserved (30_encoding.md R65). -/
def sourceOfNumber : Nat → Option Source
  | 0 => some .sck
  | 1 => some .cs
  | 2 => some .tov
  | _ => none

/-- The operand `l` of format L: bit 0 (30_encoding.md R65). -/
def levelOperand (c : Byte) : Level := c.getLsbD 0

/-- The decoder of 30_encoding.md R66, in the order its text gives the tests; a reserved code decodes to nothing
(30_encoding.md R67). -/
def decode (c : Byte) : Option Instr :=
  if c = 0x00 then some .reset
  else if c = 0x01 then some .start
  else if c &&& 0xFE = 0x10 then some (.sdi (levelOperand c))
  else if c &&& 0xFE = 0x20 then some (.sck (levelOperand c))
  else if c &&& 0xFE = 0x30 then some (.csn (levelOperand c))
  else if c = 0x40 then some .tov
  else if c &&& 0xFC = 0x80 then (sourceOfNumber (c &&& 0x03).toNat).map Source.instr
  else if c &&& 0xF0 = 0x90 then (microOfNumber (c &&& 0x0F).toNat).map Micro.instr
  else none

/-- Format L: a 7-bit fixed part and the level in bit 0 (30_encoding.md R64). -/
def formatL (fixed : Byte) (l : Level) : Byte := fixed ||| BitVec.zeroExtend 8 (BitVec.ofBool l)

/-- The code of each operation, from the map of 30_encoding.md R66. -/
def encode : Instr → Byte
  | .reset => 0x00
  | .start => 0x01
  | .sdi l => formatL 0x10 l
  | .sck l => formatL 0x20 l
  | .csn l => formatL 0x30 l
  | .tov => 0x40
  | .irqSck => 0x80
  | .irqCs => 0x81
  | .irqTov => 0x82
  | .rxbit => 0x90
  | .flatch => 0x91
  | .ucmp => 0x92
  | .wsave => 0x93
  | .wcli => 0x94
  | .whi => 0x95
  | .wlo => 0x96
  | .wrest => 0x97
  | .urec => 0x98

/-- The outcome of decoding a whole trace: its operations, or the position and the code of the first reserved code
(30_encoding.md R67: refused, naming the position). -/
inductive TraceDecoding where
  | ok (is : List Instr)
  | reservedAt (pos : Nat) (code : Byte)
deriving DecidableEq, Repr

/-- Decodes the codes from position `pos` on (30_encoding.md R67). -/
def decodeTraceFrom (pos : Nat) : List Byte → TraceDecoding
  | [] => .ok []
  | c :: cs =>
    match decode c with
    | none => .reservedAt pos c
    | some i =>
      match decodeTraceFrom (pos + 1) cs with
      | .ok is => .ok (i :: is)
      | .reservedAt p d => .reservedAt p d

/-- Decodes a whole trace (30_encoding.md R67, R68). -/
def decodeTrace (cs : List Byte) : TraceDecoding := decodeTraceFrom 0 cs

/-- The first code of a table word: every code is one byte (30_encoding.md R71), so it is the word's low eight bits, the
bits from `nbits` on being 0 (log 13). -/
def tableByte (nbits w : Nat) : Byte := BitVec.ofNat 8 (w % 2 ^ nbits)

/-- The operation the decoder reads from a word of spec/opcode_table.json. -/
def decodeTableWord (nbits w : Nat) : Option Instr := decode (tableByte nbits w)

/-! The textual syntax of traces, 30_encoding.md R69. Text is a list of characters. -/

/-- Every operation, with every operand, once (30_encoding.md R66). -/
def allInstrs : List Instr :=
  [.reset, .start, .sdi false, .sdi true, .sck false, .sck true, .csn false, .csn true, .tov,
   .irqSck, .irqCs, .irqTov, .rxbit, .flatch, .ucmp, .wsave, .wcli, .whi, .wlo, .wrest, .urec]

/-- The digit of a level (30_encoding.md R69). -/
def levelDigit (l : Level) : Char := if l then '1' else '0'

/-- The text of one operation: its mnemonic in lower case and its operand (30_encoding.md R69). -/
def instrText : Instr → List Char
  | .reset => ['r', 'e', 's', 'e', 't']
  | .start => ['s', 't', 'a', 'r', 't']
  | .sdi l => ['s', 'd', 'i', ' ', levelDigit l]
  | .sck l => ['s', 'c', 'k', ' ', levelDigit l]
  | .csn l => ['c', 's', 'n', ' ', levelDigit l]
  | .tov => ['t', 'o', 'v']
  | .irqSck => ['i', 'r', 'q', ' ', 's', 'c', 'k']
  | .irqCs => ['i', 'r', 'q', ' ', 'c', 's']
  | .irqTov => ['i', 'r', 'q', ' ', 't', 'o', 'v']
  | .rxbit => ['r', 'x', 'b', 'i', 't']
  | .flatch => ['f', 'l', 'a', 't', 'c', 'h']
  | .ucmp => ['u', 'c', 'm', 'p']
  | .wsave => ['w', 's', 'a', 'v', 'e']
  | .wcli => ['w', 'c', 'l', 'i']
  | .whi => ['w', 'h', 'i']
  | .wlo => ['w', 'l', 'o']
  | .wrest => ['w', 'r', 'e', 's', 't']
  | .urec => ['u', 'r', 'e', 'c']

/-- The characters that separate an operation from the next: the end of a line, or a semicolon (30_encoding.md R69). -/
def isSeparator (c : Char) : Bool := c == '\n' || c == ';'

/-- White space inside a line (DESIGN CHOICE, log 12; safe). -/
def isBlank (c : Char) : Bool := c == ' ' || c == '\t' || c == '\r'

/-- Removes the comments: from `#` to the end of its line (30_encoding.md R69). The flag says whether a comment is open. -/
def stripComments : Bool → List Char → List Char
  | _, [] => []
  | inComment, c :: cs =>
    if c == '\n' then c :: stripComments false cs
    else if inComment || c == '#' then stripComments true cs
    else c :: stripComments false cs

/-- The pieces between separators. The accumulator holds the piece being read, last character first. -/
def splitPieces : List Char → List Char → List (List Char)
  | acc, [] => [acc.reverse]
  | acc, c :: cs => if isSeparator c then acc.reverse :: splitPieces [] cs else splitPieces (c :: acc) cs

/-- The words of a piece, separated by blanks. The accumulator holds the word being read, last character first. -/
def splitWords : List Char → List Char → List (List Char)
  | acc, [] => if acc.isEmpty then [] else [acc.reverse]
  | acc, c :: cs =>
    if isBlank c then (if acc.isEmpty then splitWords [] cs else acc.reverse :: splitWords [] cs)
    else splitWords (c :: acc) cs

/-- The operation a piece's words name, if any (30_encoding.md R69). -/
def parseWords (ws : List (List Char)) : Option Instr :=
  allInstrs.find? fun i => splitWords [] (instrText i) == ws

/-- Reads the pieces in order; a piece with no word is skipped, a piece that names no operation is refused. -/
def parsePieces : List (List Char) → Option (List Instr)
  | [] => some []
  | p :: ps =>
    match splitWords [] p with
    | [] => parsePieces ps
    | w :: ws => (parseWords (w :: ws)).bind fun i => (parsePieces ps).map (i :: ·)

/-- Reads a textual trace (30_encoding.md R69). -/
def parseTrace (text : List Char) : Option (List Instr) := parsePieces (splitPieces [] (stripComments false text))

/-- Writes a trace as text, one operation a line (30_encoding.md R69). -/
def renderTrace : List Instr → List Char
  | [] => []
  | i :: is => instrText i ++ '\n' :: renderTrace is

end Sys2Proof
end

