-- ==== Sys2Proof/Machine/Fetch.lean ====
section
/-! DEFINITION. What the machine does next: the next code of the trace (30_encoding.md R68) or, when the trace is empty, the
block's own next step in the order of 60_exceptions.md R162; and the placing of a code as the next one to run. -/

namespace Sys2Proof.Machine

/-- What the next step is. -/
inductive Fetched where
  /-- the next code of the trace decodes to this operation -/
  | code (i : Instr)
  /-- the next code of the trace is reserved -/
  | reserved (c : Byte)
  /-- the trace is empty and the block's own next operation is this one -/
  | own (i : Instr)
  /-- the trace is empty and the block has no enabled step -/
  | idle
deriving DecidableEq, Repr

/-- The operation the block performs next under the schedule of 60_exceptions.md R162: the first dispatchable source, else
the micro-operation at `pc`, else none. -/
def blockChoice (s : State) : Option Instr :=
  match (prioOrder s.cfg.prio).find? fun x => dispatchable x s with
  | some x => some x.instr
  | none => s.ctx.head?.map Micro.instr

/-- The next step of the machine (log 2, log 3). -/
def fetch (s : State) : Fetched :=
  match s.trace with
  | c :: _ =>
    match decode c with
    | some i => .code i
    | none => .reserved c
  | [] =>
    match blockChoice s with
    | some i => .own i
    | none => .idle

/-- One code of the trace has run. -/
def consume (s : State) : State := { s with trace := s.trace.tail, pos := s.pos + 1 }

/-- The frames of every handler but one. -/
def otherFrames (x : Source) (ctx : List Micro) : List Micro := ctx.filter fun m => m.handler != x

/-- The state with a source requested, and no other, in a started block with interrupts enabled, its handler not running. -/
def arrangeIrq (x : Source) (s : State) : State :=
  writePending x true
    { s with started := true, gie := true, pfSck := false, pfCs := false, pfTov := false, ctx := otherFrames x s.ctx }

/-- The state with the handler of a micro-operation running, on top, at that micro-operation. -/
def arrangeMicro (m : Micro) (s : State) : State := { s with ctx := m :: otherFrames m.handler s.ctx }

/-- Selects an operation as the machine's next: where it is not enabled, what its enabling condition asks for is arranged
(DESIGN CHOICE, log 10). Not part of the machine: no step calls it. -/
def arrange (i : Instr) (s : State) : State :=
  if enabled i s then s else
    match i with
    | .reset | .sdi _ | .sck _ | .csn _ | .tov => s
    | .start => { s with started := false }
    | .irqSck => arrangeIrq .sck s
    | .irqCs => arrangeIrq .cs s
    | .irqTov => arrangeIrq .tov s
    | .rxbit => arrangeMicro .rxbit s
    | .flatch => arrangeMicro .flatch s
    | .ucmp => arrangeMicro .ucmp s
    | .wsave => arrangeMicro .wsave s
    | .wcli => arrangeMicro .wcli s
    | .whi => arrangeMicro .whi s
    | .wlo => arrangeMicro .wlo s
    | .wrest => arrangeMicro .wrest s
    | .urec => arrangeMicro .urec s

/-- Stores a code as the next one of the trace, in the place of the one that stood there. -/
def storeCode (c : Byte) (s : State) : State := { s with trace := c :: s.trace.tail }

/-- Stores a code as the next one and selects its operation (log 10). -/
def placeCode (c : Byte) (s : State) : State :=
  match decode c with
  | some i => arrange i (storeCode c s)
  | none => storeCode c s

end Sys2Proof.Machine
end

