-- ==== Sys2Proof/Machine/Step.lean ====
section
/-! DEFINITION. One step of the machine (60_exceptions.md R161), and the placing of an operation as the next to run. -/

namespace Sys2Proof.Machine

/-- One step: the operation of the next code of the trace, or a refusal that names the position of a reserved code; with an
empty trace the block's own next operation, or, the block being quiescent, nothing (60_exceptions.md R161, R163;
30_encoding.md R67, R68; log 2, log 3). -/
def step (s : State) : Host.Outcome State Fault Refusal :=
  match fetch s with
  | .code i => mapNext consume (exec i s)
  | .reserved c => .refused (.reservedCode s.pos c)
  | .own i => exec i s
  | .idle => .next s

/-- The state with a table word's code stored where `step` reads its next code, and its operation selected (log 10). -/
def State.withFetchWord (s : State) (nbits w : Nat) : State := placeCode (tableByte nbits w) s

end Sys2Proof.Machine
end

