-- ==== Sys2Proof/Machine/Schedule.lean ====
section
/-! DEFINITION. Executions, finite and infinite, and the block's fairness (60_exceptions.md R161, 30_encoding.md R68), the
run-to-quiescence function `settle` (60_exceptions.md R162), and the expansion of the pseudo-operations (30_encoding.md R70). -/

namespace Sys2Proof.Machine

/-- Runs a sequence of operations; `none` when one of them is not enabled, that is when the trace is not valid from the
state (30_encoding.md R68). -/
def runOps : List Instr → State → Option State
  | [], s => some s
  | i :: is, s =>
    match exec i s with
    | .next t => runOps is t
    | .fault _ => none
    | .refused _ => none

/-- A trace is valid from a state when every code decodes and every operation is enabled in turn (30_encoding.md R68). -/
def validTrace (cs : List Byte) (s : State) : Bool :=
  match decodeTrace cs with
  | .ok is => (runOps is s).isSome
  | .reservedAt _ _ => false

/-- An infinite execution (60_exceptions.md R161): `ops n` is the operation performed in the state `sts n`, each enabled in the
state the ones before it reach. A finite execution is a run of `runOps`. -/
def InfiniteExecution (ops : Nat → Instr) (sts : Nat → State) : Prop :=
  ∀ n : Nat, exec (ops n) (sts n) = .next (sts (n + 1))

/-- The block has an enabled step: an IRQ, or the micro-operation at `pc` (60_exceptions.md R161). -/
def BlockEnabled (s : State) : Prop := ∃ i : Instr, i.agent = .blk ∧ enabled i s = true

/-- The fairness assumption for liveness claims (60_exceptions.md R161, weak fairness as 92_eei_decisions.md D17 says): where the
block has an enabled step from some point on, it takes a step. -/
def BlockFair (ops : Nat → Instr) (sts : Nat → State) : Prop :=
  ∀ n : Nat, (∀ m : Nat, n ≤ m → BlockEnabled (sts m)) → ∃ m : Nat, n ≤ m ∧ (ops m).agent = .blk

/-- An infinite execution that is fair to the block (60_exceptions.md R161). -/
def FairExecution (ops : Nat → Instr) (sts : Nat → State) : Prop :=
  InfiniteExecution ops sts ∧ BlockFair ops sts

/-- `settle` for at most so many operations: the operations performed and the state they leave (60_exceptions.md R162). -/
def settleFor : Nat → State → List Instr × State
  | 0, s => ([], s)
  | n + 1, s =>
    match blockChoice s with
    | none => ([], s)
    | some i =>
      match exec i s with
      | .next t => (i :: (settleFor n t).1, (settleFor n t).2)
      | .fault _ => ([], s)
      | .refused _ => ([], s)

/-- A number of operations after which `settle` has stopped, whatever handlers were on `ctx` (60_exceptions.md R162 gives 12
for a state with none; log 5). -/
def settleBound : Nat := 21

/-- `settle` (60_exceptions.md R162). -/
def settle (s : State) : List Instr × State := settleFor settleBound s

/-- An element of an expansion: an operation, or a run of `settle` (30_encoding.md R70). -/
inductive Item where
  | op (i : Instr)
  | settle
deriving DecidableEq, Repr

/-- `clk d` (30_encoding.md R70). -/
def clkItems (d : Level) : List Item := [.op (.sdi d), .op (.sck true), .settle, .op (.sck false)]

/-- `clkn n w`: one `clk` per bit of the `n`-bit value `w`, bit `n - 1` first (30_encoding.md R70). -/
def clknItems : Nat → Word → List Item
  | 0, _ => []
  | n + 1, w => clkItems (w.getLsbD n) ++ clknItems n w

/-- The expansion of each pseudo-operation (30_encoding.md R70). -/
def pseudoItems : Pseudo → List Item
  | .op i => [.op i]
  | .settle => [.settle]
  | .clk d => clkItems d
  | .clkn n w => clknItems n w
  | .frame w => [.op (.csn false), .settle] ++ clknItems 16 w ++ [.op (.csn true), .settle]
  | .tick => [.op .tov, .settle]
  | .boot => [.op .reset, .op .start]

/-- Runs an expansion: the operations it performs and the state they leave; `none` when one is not enabled. -/
def runItems : List Item → State → Option (List Instr × State)
  | [], s => some ([], s)
  | .op i :: rest, s =>
    match exec i s with
    | .next t => (runItems rest t).map fun r => (i :: r.1, r.2)
    | .fault _ => none
    | .refused _ => none
  | .settle :: rest, s => (runItems rest (settle s).2).map fun r => ((settle s).1 ++ r.1, r.2)

/-- Performs a pseudo-operation (30_encoding.md R70). -/
def runPseudo (p : Pseudo) (s : State) : Option (List Instr × State) := runItems (pseudoItems p) s

/-- The real operations a pseudo-operation expands to in a state (30_encoding.md R70). -/
def expandPseudo (p : Pseudo) (s : State) : Option (List Instr) := (runPseudo p s).map Prod.fst

/-- Performs a script of pseudo-operations, for example `boot; frame w; tick` (30_encoding.md R69, R70). -/
def runScript : List Pseudo → State → Option (List Instr × State)
  | [], s => some ([], s)
  | p :: ps, s => (runPseudo p s).bind fun r => (runScript ps r.2).map fun q => (r.1 ++ q.1, q.2)

end Sys2Proof.Machine
end

