-- ==== Sys2Proof/Safety.lean ====
section
/-! DEFINITION. What holds of every run of the machine, in the terms the statements use: the invariants of 10_state.md R25,
an invariant that every step keeps, quiescent states, well-timed traces, and what a run has written and latched. -/

namespace Sys2Proof.Machine

/-- Quiescent: no handler is running and no source is dispatchable (60_exceptions.md R163). -/
def Quiescent (s : State) : Prop := s.ctx = [] ∧ ∀ x : Source, dispatchable x s = false

/-- The micro-operations at which the critical section has begun and not ended (44_pwm_register_writer.md R136). -/
def Critical (m : Micro) : Prop := m = .whi ∨ m = .wlo ∨ m = .wrest

/-- No frame of the Output Updater is on `ctx` (10_state.md R24). -/
def NoUpdaterFrame (s : State) : Prop := ∀ m ∈ s.ctx, m.handler ≠ .tov

/-- Before START the general registers and `OCR` hold their reset values (10_state.md R25, invariant 5). -/
def RegistersAtReset (s : State) : Prop :=
  s.receive = 0 ∧ s.bits = 0 ∧ s.value = 0 ∧ s.oldValue = 0 ∧ s.t = 0 ∧ s.sv = false ∧ ocr s = 0

/-- The six invariants of 10_state.md R25, in its order. -/
structure SpecInvariants (s : State) : Prop where
  bits_le : s.bits.toNat ≤ 16
  receive_lt : s.receive.toNat < 2 ^ s.bits.toNat
  shadow : NoUpdaterFrame s → s.oldValue = ocr s
  writing_disabled : s.gie = true → Micro.whi ∉ s.ctx ∧ Micro.wlo ∉ s.ctx
  before_start : s.started = false →
    s.gie = false ∧ (∀ x : Source, pending x s = false) ∧ s.ctx = [] ∧ RegistersAtReset s
  unnested_disabled : s.cfg.nesting = false → s.ctx ≠ [] → s.gie = false

/-- An invariant every single step keeps: the invariants of 10_state.md R25 with what their proofs need beside them (the
shape of `ctx`, 10_state.md R24; where `GIE` is 1; what `sv` and the two cells hold at each micro-operation of the writer). -/
structure Inv (s : State) : Prop where
  bits_le : s.bits.toNat ≤ 16
  receive_lt : s.receive.toNat < 2 ^ s.bits.toNat
  /-- at most one frame of each handler -/
  one_frame : (s.ctx.map Micro.handler).Nodup
  /-- without nesting, at most one frame at all -/
  unnested : s.cfg.nesting = false → s.ctx.length ≤ 1
  /-- a frame in the critical section is the top one -/
  critical_top : ∀ m ∈ s.ctx.tail, ¬ Critical m
  /-- `GIE` is 1 exactly after START, outside the critical section, and in a handler only with nesting -/
  gie_iff : s.gie = true ↔
    s.started = true ∧ (∀ m ∈ s.ctx, ¬ Critical m) ∧ (s.cfg.nesting = true ∨ s.ctx = [])
  /-- the saved enable -/
  saved : ∀ m ∈ s.ctx, (m = .wcli ∨ Critical m) → s.sv = s.cfg.nesting
  /-- before the high half is written `OCR` is the last applied word -/
  shadow : (∀ m ∈ s.ctx, m ≠ .wlo ∧ m ≠ .wrest ∧ m ≠ .urec) → s.oldValue = ocr s
  /-- between the two halves `OCR` is the new high byte and the old low byte (44_pwm_register_writer.md R139) -/
  torn : Micro.wlo ∈ s.ctx → s.ocrh = highByte s.t ∧ s.ocrl = lowByte s.oldValue
  /-- after the low half `OCR` is the word being applied -/
  written : Micro.wrest ∈ s.ctx ∨ Micro.urec ∈ s.ctx → ocr s = s.t
  before_start : s.started = false →
    (∀ x : Source, pending x s = false) ∧ s.ctx = [] ∧ RegistersAtReset s

/-- The levels the Bit Receiver reads in a run: `SDI` at the instant of each RXBIT, first to last (41_bit_receiver.md R100). -/
def sampledLevels : List Instr → State → List Level
  | [], _ => []
  | i :: is, s =>
    match exec i s with
    | .next u => (if i = .rxbit then [pinRead .sdi s] else []) ++ sampledLevels is u
    | .fault _ => []
    | .refused _ => []

/-- The words a run applies completely: `t` at each WLO (43_output_updater.md R124, 44_pwm_register_writer.md R136). -/
def wordsWritten : List Instr → State → List Word
  | [], _ => []
  | i :: is, s =>
    match exec i s with
    | .next u => (if i = .wlo then [s.t] else []) ++ wordsWritten is u
    | .fault _ => []
    | .refused _ => []

/-- The words a run latches: `receive` at each FLATCH that finds 16 bits (42_frame_latch.md R110). -/
def wordsLatched : List Instr → State → List Word
  | [], _ => []
  | i :: is, s =>
    match exec i s with
    | .next u => (if i = .flatch ∧ s.bits = fullCount then [s.receive] else []) ++ wordsLatched is u
    | .fault _ => []
    | .refused _ => []

/-- The word of a list of levels, first level highest (30_encoding.md R61). -/
def levelsValue (ds : List Level) : Nat := ds.foldl (fun n d => 2 * n + d.toNat) 0

/-- An operation of the master (70_reset_and_hazards.md R206). -/
def MasterOperation : Instr → Prop
  | .sdi _ | .sck _ | .csn _ => True
  | .reset | .start | .tov | .irqSck | .irqCs | .irqTov => False
  | .rxbit | .flatch | .ucmp | .wsave | .wcli | .whi | .wlo | .wrest | .urec => False

/-- The master's own requests are served: no pending request of SCK or CS and no Bit Receiver or Frame Latch frame on `ctx`
(70_reset_and_hazards.md R206). -/
def RequestsServed (s : State) : Prop :=
  s.pfSck = false ∧ s.pfCs = false ∧ Micro.rxbit ∉ s.ctx ∧ Micro.flatch ∉ s.ctx

/-- A trace is well-timed from a state: every master operation is performed in a state where the master's requests are
served (70_reset_and_hazards.md R206). -/
def WellTimed : List Instr → State → Prop
  | [], _ => True
  | i :: is, s =>
    (MasterOperation i → RequestsServed s) ∧
      match exec i s with
      | .next u => WellTimed is u
      | .fault _ => True
      | .refused _ => True

end Sys2Proof.Machine
end

