-- ==== Sys2Proof/Certificates/Slice0/Obligations.lean ====
section
/-! DEFINITION. The statements for the provers. Each docstring names the rule of spec/ it formalises, or says what it is derived
from. Nothing is proved here. -/

namespace Sys2Proof.Machine

/-- A source stands before another in a setting of `PRIO` that is a permutation (60_exceptions.md R156 (e)). -/
def ComesBefore (p : Prio) (y x : Source) : Prop := p ≠ .any ∧ (prioOrder p).idxOf y < (prioOrder p).idxOf x

/-- Conditions (c) and (d) of 60_exceptions.md R156 for a source. -/
def PendingAndNotRunning (x : Source) (s : State) : Prop := pending x s = true ∧ ∀ m ∈ s.ctx, m.handler ≠ x

/-- The enabling condition of IRQ, as 60_exceptions.md R156 lists it: (a) to (e). -/
def IrqEnabledBySpec (x : Source) (s : State) : Prop :=
  s.started = true ∧ s.gie = true ∧ PendingAndNotRunning x s ∧
    ∀ y : Source, ComesBefore s.cfg.prio y x → ¬ PendingAndNotRunning y s

/-- The enabling conditions as 30_encoding.md R68 lists them. -/
def EnabledBySpec (i : Instr) (s : State) : Prop :=
  match i with
  | .reset | .sdi _ | .sck _ | .csn _ | .tov => True
  | .start => s.started = false
  | .irqSck => IrqEnabledBySpec .sck s
  | .irqCs => IrqEnabledBySpec .cs s
  | .irqTov => IrqEnabledBySpec .tov s
  | .rxbit => ∃ rest, s.ctx = .rxbit :: rest
  | .flatch => ∃ rest, s.ctx = .flatch :: rest
  | .ucmp => ∃ rest, s.ctx = .ucmp :: rest
  | .wsave => ∃ rest, s.ctx = .wsave :: rest
  | .wcli => ∃ rest, s.ctx = .wcli :: rest
  | .whi => ∃ rest, s.ctx = .whi :: rest
  | .wlo => ∃ rest, s.ctx = .wlo :: rest
  | .wrest => ∃ rest, s.ctx = .wrest :: rest
  | .urec => ∃ rest, s.ctx = .urec :: rest

/-- The reserved codes, as 30_encoding.md R67 lists them. -/
def ReservedBySpec (n : Nat) : Prop :=
  (0x02 ≤ n ∧ n ≤ 0x0F) ∨ (0x12 ≤ n ∧ n ≤ 0x1F) ∨ (0x22 ≤ n ∧ n ≤ 0x2F) ∨ (0x32 ≤ n ∧ n ≤ 0x3F) ∨ (0x41 ≤ n ∧ n ≤ 0x7F) ∨
    n = 0x83 ∨ (0x84 ≤ n ∧ n ≤ 0x8F) ∨ (0x99 ≤ n ∧ n ≤ 0x9F) ∨ (0xA0 ≤ n ∧ n ≤ 0xFF)

/-- The line an event of 40_environment_events.md acts on: SDI, SCK, CS_N, or the timer. -/
def eventLine : Instr → Option Nat
  | .sdi _ => some 0
  | .sck _ => some 1
  | .csn _ => some 2
  | .tov => some 3
  | .reset | .start | .irqSck | .irqCs | .irqTov => none
  | .rxbit | .flatch | .ucmp | .wsave | .wcli | .whi | .wlo | .wrest | .urec => none

/-- A sequence of line events and overflows only. -/
def OnlyEvents (is : List Instr) : Prop := ∀ i ∈ is, eventLine i ≠ none

/-- Two states that agree in everything but `NESTING` (`true` in the second), `GIE` and `sv`
(92_eei_decisions.md D3). -/
def SameButEnables (s s' : State) : Prop :=
  s' = { s with cfg := { s.cfg with nesting := true }, gie := s'.gie, sv := s'.sv }

end Sys2Proof.Machine

open Sys2Proof Sys2Proof.Machine

/-! ### Encodings -/

/-- Decode and encode agree (derived from 30_encoding.md R64 to R66): no operand is dropped. -/
def Obligations.EncodedOperationDecodesToItself : Prop :=
  (∀ i : Instr, i.wf = true → decode (encode i) = some i) ∧
    ∀ (c : Byte) (i : Instr), decode c = some i → encode i = c

/-- Reserved codes (derived from 30_encoding.md R67, the spec's own decision D13): the codes the decoder refuses are exactly
the listed ranges, and a step that meets one is refused with its position and does nothing else. -/
def Obligations.ReservedCodesAreRefusedWithTheirPosition : Prop :=
  (∀ c : Byte, decode c = none ↔ ReservedBySpec c.toNat) ∧
    ∀ (s : State) (c : Byte) (rest : List Byte), s.trace = c :: rest → ReservedBySpec c.toNat →
      step s = .refused (.reservedCode s.pos c)

/-- Codes written out from the map, one or more of every format and family (derived from 30_encoding.md R66). -/
def Obligations.SampleCodesDecodeAsTheMapSays : Prop :=
  decode 0b00000000#8 = some .reset ∧ decode 0b00000001#8 = some .start ∧ decode 0b00010001#8 = some (.sdi true) ∧
    decode 0b00100000#8 = some (.sck false) ∧ decode 0b00110001#8 = some (.csn true) ∧ decode 0b01000000#8 = some .tov ∧
    decode 0b10000001#8 = some .irqCs ∧ decode 0b10010000#8 = some .rxbit ∧ decode 0b10010001#8 = some .flatch ∧
    decode 0b10010110#8 = some .wlo ∧ decode 0b10011000#8 = some .urec

/-- A whole trace (derived from 30_encoding.md R67, R68, R71): the codes of operations decode to those operations, and a
trace with a reserved code is refused at the position of the first one. -/
def Obligations.WholeTraceDecodesOrNamesTheFirstReservedPosition : Prop :=
  (∀ is : List Instr, decodeTrace (is.map encode) = .ok is) ∧
    ∀ (is : List Instr) (c : Byte) (rest : List Byte), ReservedBySpec c.toNat →
      decodeTrace (is.map encode ++ c :: rest) = .reservedAt is.length c

/-- The textual syntax (derived from 30_encoding.md R69; white space: log 12): operations separated by line ends or
semicolons, each followed by a comment to the end of its line or not, read back as the operations. -/
def Obligations.TextOfATraceReadsBack : Prop :=
  (∀ is : List Instr, parseTrace (renderTrace is) = some is) ∧
    (∀ ps : List (Instr × Char), (∀ p ∈ ps, p.2 = '\n' ∨ p.2 = ';') →
      parseTrace (ps.flatMap fun p => instrText p.1 ++ [p.2]) = some (ps.map Prod.fst)) ∧
    ∀ ps : List (Instr × List Char), (∀ p ∈ ps, '\n' ∉ p.2) →
      parseTrace (ps.flatMap fun p => instrText p.1 ++ ' ' :: '#' :: p.2 ++ ['\n']) = some (ps.map Prod.fst)

/-! ### The step -/

/-- A step runs the decoded operation (derived from 30_encoding.md R68 and 60_exceptions.md R161; the trace in State is the
model's choice, log 2): its effect, and then the code is consumed; a refusal is passed on. -/
def Obligations.StepRunsTheDecodedOperation : Prop :=
  ∀ (s : State) (c : Byte) (rest : List Byte) (i : Instr), s.trace = c :: rest → decode c = some i →
    (∀ u : State, exec i s = .next u → step s = .next { u with trace := rest, pos := s.pos + 1 }) ∧
      ∀ r : Refusal, exec i s = .refused r → step s = .refused r

/-- With an empty trace the block acts on its own in the order of `settle`, and a quiescent block stays as it is (derived from
60_exceptions.md R162, R163; that a step does this is the model's choice, log 3). -/
def Obligations.StepOnAnEmptyTraceFollowsSettle : Prop :=
  ∀ s : State, s.trace = [] → s.cfg.prio = .any →
    (dispatchable .sck s = true → step s = exec .irqSck s) ∧
    (dispatchable .sck s = false → dispatchable .cs s = true → step s = exec .irqCs s) ∧
    (dispatchable .sck s = false → dispatchable .cs s = false → dispatchable .tov s = true → step s = exec .irqTov s) ∧
    (∀ (m : Micro) (rest : List Micro), (∀ x : Source, dispatchable x s = false) → s.ctx = m :: rest →
      step s = exec m.instr s) ∧
    (Quiescent s → step s = .next s) ∧
    ∃ u : State, step s = .next u

/-- A step is refused exactly when the trace is not valid at its next code (derived from 30_encoding.md R67, R68 and
60_exceptions.md R150, R161): a reserved code, or an operation that is not enabled. In every other state it answers a next
state; that it does so with an empty trace too, where the spec says that a finite trace simply stops (60_exceptions.md R172),
is the model's choice (log 3), and that State carries the trace is another (log 2). -/
def Obligations.StepStopsExactlyOnAnInvalidTrace : Prop :=
  ∀ s : State, (¬ ∃ u : State, step s = .next u) ↔
    ∃ (c : Byte) (rest : List Byte), s.trace = c :: rest ∧
      (decode c = none ∨ ∃ i : Instr, decode c = some i ∧ ¬ EnabledBySpec i s)

/-- Enabling (derived from 30_encoding.md R68, the spec's own decision D13): every one of the 18 operations has its effect in
every state its enabling condition allows, and is refused (not faulted) in every other. -/
def Obligations.OperationRunsExactlyWhenEnabled : Prop :=
  ∀ (i : Instr) (s : State),
    (EnabledBySpec i s → ∃ u : State, exec i s = .next u) ∧
      (¬ EnabledBySpec i s → exec i s = .refused (.notEnabled s.pos i))

/-- A validity check of codes is a check of the operations in turn (derived from 30_encoding.md R68; that State carries the
trace is the model's choice, log 2). -/
def Obligations.ValidTraceIsARunOfTheMachine : Prop :=
  ∀ (cs : List Byte) (s : State),
    validTrace cs s = true ↔ ∃ u : State, Host.Core.run Sys2Proof.core cs.length { s with trace := cs } = .next u

/-- Placing a table word (the model's choice, log 10; derived from 30_encoding.md R66, R68): the next step runs exactly that
operation, to a next state. -/
def Obligations.PlacedOperationIsTheNextToRun : Prop :=
  ∀ (s : State) (i : Instr), ∃ u : State,
    exec i (State.withFetchWord s 8 (encode i).toNat) = .next u ∧
      step (State.withFetchWord s 8 (encode i).toNat) = .next { u with trace := s.trace.tail, pos := s.pos + 1 }

/-! ### Power-on, RESET, START -/

/-- The state at power-on, for every value of the parameters (derived from 10_state.md R30, whose values are the spec's own
decision D9, log 6). -/
def Obligations.PowerOnStateIsTheResetTable : Prop :=
  (∀ cfg : Config,
    let s := State.powerOn cfg
    s.receive.toNat = 0 ∧ s.bits.toNat = 0 ∧ s.value.toNat = 0 ∧ s.oldValue.toNat = 0 ∧ s.t.toNat = 0 ∧ s.sv = false ∧
      (ocr s).toNat = 0 ∧ s.gie = false ∧ (∀ x : Source, pending x s = false) ∧ s.started = false ∧ s.ctx = [] ∧
      s.sdi = cfg.pin0.sdi ∧ s.sck = cfg.pin0.sck ∧ s.csN = cfg.pin0.csN ∧ s.cfg = cfg) ∧
    State.reset.sdi = false ∧ State.reset.sck = false ∧ State.reset.csN = true

/-- RESET in any state gives the power-on values and leaves the pins (derived from 70_reset_and_hazards.md R190 and
10_state.md R30, whose values are the spec's own decision D9, log 6); it leaves the parameters and the trace too, which are
fields of the model's choice (log 1, log 2). -/
def Obligations.ResetGivesThePowerOnValuesAndKeepsThePins : Prop :=
  ∀ s : State, exec .reset s =
    .next { State.powerOn s.cfg with sdi := s.sdi, sck := s.sck, csN := s.csN, trace := s.trace, pos := s.pos }

/-- START runs only in a block not yet started, makes it live and changes nothing else (derived from
70_reset_and_hazards.md R191, the spec's own decision D10, and 30_encoding.md R68). -/
def Obligations.StartMakesTheBlockLiveOnce : Prop :=
  ∀ s : State,
    (s.started = false → exec .start s = .next { s with started := true, gie := true }) ∧
      (s.started = true → exec .start s = .refused (.notEnabled s.pos .start))

/-! ### The environment -/

/-- 40_environment_events.md R80. -/
def Obligations.SdiDrivesTheDataLineOnly : Prop :=
  ∀ (l : Level) (s : State), exec (.sdi l) s = .next { s with sdi := l }

/-- 40_environment_events.md R81: only a rising edge of a started block requests the Bit Receiver, whatever `CS_N` is. -/
def Obligations.SckRisingEdgeRequestsTheBitReceiver : Prop :=
  ∀ (l : Level) (s : State), exec (.sck l) s =
    .next { s with
      sck := l
      pfSck := if s.started = true ∧ s.sck = false ∧ l = true then true else s.pfSck }

/-- 40_environment_events.md R82: the release edge, and under `CS_SENSE = ANY` the asserting edge, requests the Frame Latch. -/
def Obligations.ChipSelectEdgeRequestsTheFrameLatch : Prop :=
  ∀ (l : Level) (s : State), exec (.csn l) s =
    .next { s with
      csN := l
      pfCs :=
        if s.started = true ∧ ((s.csN = false ∧ l = true) ∨ (s.cfg.csSense = .any ∧ s.csN = true ∧ l = false)) then true
        else s.pfCs }

/-- 40_environment_events.md R83. -/
def Obligations.OverflowRequestsTheOutputUpdater : Prop :=
  ∀ s : State, exec .tov s = .next { s with pfTov := if s.started = true then true else s.pfTov }

/-- Before START the lines move, and no pending flag is set (derived from 40_environment_events.md R86, the spec's own decision
D10). -/
def Obligations.EventsBeforeStartSetNoFlag : Prop :=
  ∀ (s : State) (l : Level), s.started = false →
    exec (.sdi l) s = .next { s with sdi := l } ∧ exec (.sck l) s = .next { s with sck := l } ∧
      exec (.csn l) s = .next { s with csN := l } ∧ exec .tov s = .next s

/-- Events on distinct lines commute (derived from 40_environment_events.md R87): both orders run and leave the same state. -/
def Obligations.SimultaneousEventsCommute : Prop :=
  ∀ (i j : Instr) (a b : Nat) (s : State), eventLine i = some a → eventLine j = some b → a ≠ b →
    ∃ u : State, runOps [i, j] s = some u ∧ runOps [j, i] s = some u

/-! ### Dispatch and return -/

/-- Dispatch of the three sources (derived from 60_exceptions.md R156, whose mechanism is the spec's own decisions D5 and D19):
the flag is cleared, the entry micro-operation pushed, `GIE` cleared unless `NESTING`, and nothing else changes. -/
def Obligations.DispatchEntersTheHandlerOfTheSource : Prop :=
  ∀ s : State,
    (IrqEnabledBySpec .sck s →
      exec .irqSck s =
        .next { s with pfSck := false, ctx := .rxbit :: s.ctx, gie := if s.cfg.nesting = true then s.gie else false }) ∧
    (IrqEnabledBySpec .cs s →
      exec .irqCs s =
        .next { s with pfCs := false, ctx := .flatch :: s.ctx, gie := if s.cfg.nesting = true then s.gie else false }) ∧
    (IrqEnabledBySpec .tov s →
      exec .irqTov s =
        .next { s with pfTov := false, ctx := .ucmp :: s.ctx, gie := if s.cfg.nesting = true then s.gie else false })

/-- The end of a handler (derived from 60_exceptions.md R158): RXBIT, FLATCH, UREC and the equal case of UCMP remove the top
frame, set `GIE`, and leave the frames below and the saved enable alone. -/
def Obligations.HandlerEndPopsTheFrameAndEnables : Prop :=
  ∀ (s : State) (m : Micro) (rest : List Micro), s.ctx = m :: rest →
    (m = .rxbit ∨ m = .flatch ∨ m = .urec ∨ (m = .ucmp ∧ s.value = s.oldValue)) →
    ∃ u : State, exec m.instr s = .next u ∧ u.ctx = rest ∧ u.gie = true ∧ u.sv = s.sv

/-- The arbitration (derived from 60_exceptions.md R156 (e), R157): under a permutation at most one source can be dispatched in
a state; under `ANY` every dispatchable one can; in both cases some source can whenever one is dispatchable. -/
def Obligations.PriorityArbitratesAmongWaitingSources : Prop :=
  ∀ s : State,
    (s.cfg.prio ≠ .any → ∀ (x y : Source) (u v : State), exec x.instr s = .next u → exec y.instr s = .next v → x = y) ∧
    (s.cfg.prio = .any → ∀ x : Source, dispatchable x s = true → ∃ u : State, exec x.instr s = .next u) ∧
    ∀ x : Source, dispatchable x s = true → ∃ (y : Source) (u : State), exec y.instr s = .next u

/-- 60_exceptions.md R160: a source whose handler has a frame on `ctx` is not dispatched, and its request waits in the pending
flag: no operation but RESET takes it away meanwhile. -/
def Obligations.RunningHandlerIsNotReentered : Prop :=
  ∀ (x : Source) (s : State), (∃ m ∈ s.ctx, m.handler = x) →
    exec x.instr s = .refused (.notEnabled s.pos x.instr) ∧
      ∀ (i : Instr) (u : State), pending x s = true → i ≠ .reset → exec i s = .next u → pending x u = true

/-- Who clears a pending flag (derived from 60_exceptions.md R154): the dispatch of its source and RESET, which do clear it, and
nothing else. -/
def Obligations.PendingFlagsAreClearedByDispatchAndResetOnly : Prop :=
  ∀ (x : Source) (i : Instr) (s u : State), exec i s = .next u →
    ((i = x.instr ∨ i = .reset) → pending x u = false) ∧
      (pending x s = true → pending x u = false → i = x.instr ∨ i = .reset)

/-- Quiescent states (derived from 60_exceptions.md R163): exactly those in which no operation of the block runs; and, under the
invariants, before START, or with `GIE` set and nothing pending. -/
def Obligations.QuiescentMeansNoBlockOperationRuns : Prop :=
  (∀ s : State, Quiescent s ↔ ∀ (i : Instr) (u : State), i.agent = .blk → exec i s ≠ .next u) ∧
    ∀ s : State, Inv s → Quiescent s →
      s.started = false ∨ (s.gie = true ∧ s.pfSck = false ∧ s.pfCs = false ∧ s.pfTov = false)

/-- No handler runs before START (derived from 70_reset_and_hazards.md R192 and 10_state.md R25, invariant 5). -/
def Obligations.NoBlockOperationRunsBeforeStart : Prop :=
  ∀ (s : State) (i : Instr), Inv s → s.started = false → i.agent = .blk → exec i s = .refused (.notEnabled s.pos i)

/-! ### Bit Receiver and Frame Latch -/

/-- 41_bit_receiver.md R100: while selected and with fewer than 16 bits counted the level of `SDI` is shifted in and counted;
else nothing; and the handler returns. -/
def Obligations.RxbitShiftsInOneBitWhileSelectedAndNotFull : Prop :=
  ∀ (s : State) (rest : List Micro), s.ctx = .rxbit :: rest →
    (s.csN = false → s.bits.toNat < 16 →
      exec .rxbit s = .next { s with
        receive := BitVec.ofNat 16 (2 * s.receive.toNat + s.sdi.toNat)
        bits := BitVec.ofNat 5 (s.bits.toNat + 1)
        ctx := rest
        gie := true }) ∧
    (s.csN = true ∨ 16 ≤ s.bits.toNat → exec .rxbit s = .next { s with ctx := rest, gie := true })

/-- 42_frame_latch.md R110: latch at exactly 16 bits; else discard, clearing the partial frame only under
`RESET_ON_DISCARD`; and the handler returns. -/
def Obligations.FlatchLatchesACompleteFrameOrDiscards : Prop :=
  ∀ (s : State) (rest : List Micro), s.ctx = .flatch :: rest →
    (s.bits.toNat = 16 →
      exec .flatch s = .next { s with value := s.receive, receive := 0, bits := 0, ctx := rest, gie := true }) ∧
    (s.bits.toNat ≠ 16 → s.cfg.resetOnDiscard = true →
      exec .flatch s = .next { s with receive := 0, bits := 0, ctx := rest, gie := true }) ∧
    (s.bits.toNat ≠ 16 → s.cfg.resetOnDiscard = false →
      exec .flatch s = .next { s with ctx := rest, gie := true })

/-- The outcome of FLATCH does not depend on the level of `CS_N` (derived from 42_frame_latch.md R113, the spec's own
decision D11). -/
def Obligations.FlatchDoesNotReadChipSelect : Prop :=
  ∀ (s : State) (l : Level), exec .flatch { s with csN := l } = mapNext (fun u => { u with csN := l }) (exec .flatch s)

/-- After a latch a further FLATCH with no RXBIT between changes nothing but the frame it pops (derived from
42_frame_latch.md R114). -/
def Obligations.SecondReleaseDoesNotLatchAgain : Prop :=
  ∀ (s : State) (rest : List Micro), s.ctx = .flatch :: rest → s.bits.toNat = 16 →
    ∃ u : State, exec .flatch s = .next u ∧ u.bits.toNat = 0 ∧
      exec .flatch { u with ctx := .flatch :: rest, gie := false } = .next u

/-- `receive < 2^bits` is kept by every step, from any state with `bits <= 16` (derived from 41_bit_receiver.md R105,
10_state.md R12; the block's own steps with an empty trace, the model's choice of log 3, are included). -/
def Obligations.AccumulatorStaysBelowTwoToTheCount : Prop :=
  ∀ s u : State, s.bits.toNat ≤ 16 → s.receive.toNat < 2 ^ s.bits.toNat → step s = .next u →
    u.bits.toNat ≤ 16 ∧ u.receive.toNat < 2 ^ u.bits.toNat

/-- The frame property (derived from 41_bit_receiver.md R104, 30_encoding.md R61): from `bits = 0` with chip-select asserted,
in any run with no FLATCH, RESET or release, whatever else happens, the count is the number of RXBIT operations up to 16 and
the accumulator is the first 16 levels they read, most significant first. -/
def Obligations.FirstSixteenSampledLevelsAreTheFrame : Prop :=
  ∀ (is : List Instr) (s u : State), s.bits.toNat = 0 → s.receive.toNat = 0 → s.csN = false →
    (∀ i ∈ is, i ≠ .flatch ∧ i ≠ .reset ∧ i ≠ .csn true) → runOps is s = some u →
    u.bits.toNat = min 16 (sampledLevels is s).length ∧
      u.receive.toNat = levelsValue ((sampledLevels is s).take 16)

/-! ### Output Updater and PWM Register Writer -/

/-- 43_output_updater.md R121: `value` is read once into `t`; equal to `old_value`: return; else on to WSAVE. -/
def Obligations.UcmpSnapshotsAndCompares : Prop :=
  ∀ (s : State) (rest : List Micro), s.ctx = .ucmp :: rest →
    (s.value = s.oldValue → exec .ucmp s = .next { s with t := s.value, ctx := rest, gie := true }) ∧
    (s.value ≠ s.oldValue → exec .ucmp s = .next { s with t := s.value, ctx := .wsave :: rest })

/-- 43_output_updater.md R122. -/
def Obligations.UrecRecordsTheAppliedWordAndReturns : Prop :=
  ∀ (s : State) (rest : List Micro), s.ctx = .urec :: rest →
    exec .urec s = .next { s with oldValue := s.t, ctx := rest, gie := true }

/-- 44_pwm_register_writer.md R131: `GIE` is saved; in a state of the invariant that is the value of `NESTING`; and after the
Bit Receiver and the Frame Latch have run between WSAVE and WCLI, whatever the lines and the timer did, the saved copy
still equals `GIE`. -/
def Obligations.WsaveSavesTheEnable : Prop :=
  ∀ (s : State) (rest : List Micro), s.ctx = .wsave :: rest →
    ∃ u : State, exec .wsave s = .next u ∧ u = { s with sv := s.gie, ctx := .wcli :: rest } ∧
      (Inv s → u.sv = s.cfg.nesting) ∧
      ∀ (is : List Instr) (v : State), (∀ i ∈ is, eventLine i ≠ none ∨ i ∈ [.irqSck, .irqCs, .rxbit, .flatch]) →
        runOps is u = some v → v.ctx = .wcli :: rest → v.gie = s.gie ∧ v.sv = s.gie

/-- 44_pwm_register_writer.md R132: interrupts are disabled; in a started block, from then until WREST (or a RESET), no
source can be dispatched, whatever is pending, and a flag that is pending at any point of the run, from before it or set in
the meantime, stays pending. -/
def Obligations.WcliDisablesInterrupts : Prop :=
  ∀ (s : State) (rest : List Micro), s.ctx = .wcli :: rest →
    ∃ u : State, exec .wcli s = .next u ∧ u = { s with gie := false, ctx := .whi :: rest } ∧
      (s.started = true → ∀ (is js : List Instr) (v w : State), (∀ i ∈ is ++ js, i ≠ .wrest ∧ i ≠ .reset) →
        runOps is u = some v → runOps js v = some w →
        ∀ x : Source, (∀ z : State, exec x.instr w ≠ .next z) ∧ (pending x v = true → pending x w = true))

/-- 44_pwm_register_writer.md R133, R139: the high half of `t` is written; until WLO `OCR` is the new high and the old low
byte. -/
def Obligations.WhiWritesTheHighHalf : Prop :=
  ∀ (s : State) (rest : List Micro), s.ctx = .whi :: rest →
    ∃ u : State, exec .whi s = .next u ∧
      u = { s with ocrh := BitVec.ofNat 8 (s.t.toNat / 256), ctx := .wlo :: rest } ∧
      (ocr u).toNat = s.t.toNat / 256 * 256 + (ocr s).toNat % 256

/-- 44_pwm_register_writer.md R134: the low half of `t` is written; with the high half in place, as it is in every state of the
invariant, `OCR` is then `t`. -/
def Obligations.WloWritesTheLowHalf : Prop :=
  ∀ (s : State) (rest : List Micro), s.ctx = .wlo :: rest →
    ∃ u : State, exec .wlo s = .next u ∧
      u = { s with ocrl := BitVec.ofNat 8 s.t.toNat, ctx := .wrest :: rest } ∧
      (s.ocrh.toNat = s.t.toNat / 256 ∨ Inv s → ocr u = s.t)

/-- 44_pwm_register_writer.md R135: the saved enable is restored, not set. -/
def Obligations.WrestRestoresTheSavedEnable : Prop :=
  ∀ (s : State) (rest : List Micro), s.ctx = .wrest :: rest →
    exec .wrest s = .next { s with gie := s.sv, ctx := .urec :: rest }

/-- The writer (derived from 44_pwm_register_writer.md R130, R137): the five micro-operations in order, with any line events
and overflows between them, write the whole 16-bit word and leave `GIE` as it was before WSAVE. -/
def Obligations.WriterAppliesTheWordAndRestoresTheEnable : Prop :=
  ∀ (s : State) (rest : List Micro) (a b c d : List Instr), s.ctx = .wsave :: rest →
    OnlyEvents a → OnlyEvents b → OnlyEvents c → OnlyEvents d →
    ∃ u : State,
      runOps (.wsave :: a ++ .wcli :: b ++ .whi :: c ++ .wlo :: d ++ [.wrest]) s = some u ∧
        u.gie = s.gie ∧ ocr u = s.t ∧ u.t = s.t ∧ u.oldValue = s.oldValue ∧ u.ctx = .urec :: rest

/-- 43_output_updater.md R120: the equal case is one micro-operation, the unequal case is seven and ends with the word applied
and recorded. -/
def Obligations.OutputUpdaterRunsOneOrSevenMicroOperations : Prop :=
  ∀ (s : State) (rest : List Micro), s.ctx = .ucmp :: rest →
    (s.value = s.oldValue → runOps [.ucmp] s = some { s with t := s.value, ctx := rest, gie := true }) ∧
    (s.value ≠ s.oldValue →
      ∃ u : State, runOps [.ucmp, .wsave, .wcli, .whi, .wlo, .wrest, .urec] s = some u ∧
        ocr u = s.value ∧ u.oldValue = s.value ∧ u.t = s.value ∧ u.value = s.value ∧ u.ctx = rest ∧ u.gie = true)

/-! ### Ownership and observation -/

/-- Who writes what (derived from the column "Written by" of 10_state.md R26): a field that changes was changed by one of its
writers; the parameters, the trace and its position by nobody. -/
def Obligations.FieldsChangeByTheirWritersOnly : Prop :=
  ∀ (i : Instr) (s u : State), exec i s = .next u →
    (u.receive ≠ s.receive → i = .rxbit ∨ i = .flatch ∨ i = .reset) ∧
    (u.bits ≠ s.bits → i = .rxbit ∨ i = .flatch ∨ i = .reset) ∧
    (u.value ≠ s.value → i = .flatch ∨ i = .reset) ∧
    (u.oldValue ≠ s.oldValue → i = .urec ∨ i = .reset) ∧
    (u.t ≠ s.t → i = .ucmp ∨ i = .reset) ∧
    (u.sv ≠ s.sv → i = .wsave ∨ i = .reset) ∧
    (∀ c : IoCell, memRead c u ≠ memRead c s → i = .reset ∨ (c = .ocrh ∧ i = .whi) ∨ (c = .ocrl ∧ i = .wlo)) ∧
    (u.gie ≠ s.gie → i = .start ∨ (∃ x : Source, i = x.instr) ∨ i = .wcli ∨ i = .wrest ∨ i = .rxbit ∨ i = .flatch ∨
      i = .ucmp ∨ i = .urec ∨ i = .reset) ∧
    (∀ x : Source, pending x u ≠ pending x s →
      (x = .sck ∧ ∃ l : Level, i = .sck l) ∨ (x = .cs ∧ ∃ l : Level, i = .csn l) ∨ (x = .tov ∧ i = .tov) ∨
        i = x.instr ∨ i = .reset) ∧
    (u.started ≠ s.started → i = .start ∨ i = .reset) ∧
    (∀ p : Pin, pinRead p u ≠ pinRead p s →
      ∃ l : Level, (p = .sdi ∧ i = .sdi l) ∨ (p = .sck ∧ i = .sck l) ∨ (p = .csN ∧ i = .csn l)) ∧
    (u.ctx ≠ s.ctx → i.agent = .blk ∨ i = .reset) ∧
    u.cfg = s.cfg ∧ u.trace = s.trace ∧ u.pos = s.pos

/-- `OCR` is never read (derived from 10_state.md R17, R26 and 20_memory.md R40): the outcome of every operation, but for the
two cells themselves, is the same whatever the cells held. -/
def Obligations.NoOperationReadsTheCompareRegister : Prop :=
  ∀ (i : Instr) (s : State) (h l : Byte),
    mapNext (fun u => { u with ocrh := 0, ocrl := 0 }) (exec i { s with ocrh := h, ocrl := l }) =
      mapNext (fun u => { u with ocrh := 0, ocrl := 0 }) (exec i s)

/-- The parameters are constants of the machine (derived from 00_scope.md R5 and 10_state.md R10; that State carries them is
the model's choice, log 1): no run of any length changes them. -/
def Obligations.ParametersNeverChange : Prop :=
  ∀ (k : Nat) (s u : State), Host.Core.run Sys2Proof.core k s = .next u → u.cfg = s.cfg

/-! ### Invariants -/

/-- The invariant holds at power-on for every value of the parameters, and with any trace loaded (derived from
10_state.md R25, R30). -/
def Obligations.PowerOnMeetsTheStepInvariant : Prop :=
  ∀ (cfg : Config) (cs : List Byte), Inv { State.powerOn cfg with trace := cs }

/-- Every step of the machine keeps the invariant, from every state that meets it (derived from 10_state.md R24, R25,
43_output_updater.md R123, 44_pwm_register_writer.md R136; the block's own steps with an empty trace, the model's choice of
log 3, are included). -/
def Obligations.EveryStepKeepsTheStepInvariant : Prop :=
  ∀ s u : State, Inv s → step s = .next u → Inv u

/-- The invariant every step keeps gives the six invariants of 10_state.md R25 (derived). -/
def Obligations.StepInvariantGivesTheSpecInvariants : Prop :=
  ∀ s : State, Inv s → SpecInvariants s

/-- The six invariants (derived from 10_state.md R25; the trace in State and the block's own steps after its end are the
model's choices, log 2 and log 3) in every state the machine reaches from power-on, for every value of the parameters and
every trace of codes. -/
def Obligations.SpecInvariantsHoldOnEveryRun : Prop :=
  ∀ (cfg : Config) (cs : List Byte) (k : Nat) (u : State),
    Host.Core.run Sys2Proof.core k { State.powerOn cfg with trace := cs } = .next u → SpecInvariants u

/-- Well-formed `ctx` (derived from 10_state.md R24): in every reachable state `ctx` holds at most one frame of each handler,
hence at most 3 elements, and at most 1 without nesting. -/
def Obligations.ContextHoldsOneFramePerHandler : Prop :=
  ∀ (cfg : Config) (is : List Instr) (u : State), runOps is (State.powerOn cfg) = some u →
    (u.ctx.map Micro.handler).Nodup ∧ u.ctx.length ≤ 3 ∧ (cfg.nesting = false → u.ctx.length ≤ 1)

/-- Derived from 20_memory.md R50 and 43_output_updater.md R126: in every reachable state `value` is the reset value or the
full accumulator of a frame the run latched with 16 bits counted: it is never torn. -/
def Obligations.ValueIsTheResetValueOrALatchedFrame : Prop :=
  ∀ (cfg : Config) (is : List Instr) (u : State), runOps is (State.powerOn cfg) = some u →
    u.value = 0 ∨ u.value ∈ wordsLatched is (State.powerOn cfg)

/-- Derived from 44_pwm_register_writer.md R136: in every reachable state in the critical section `GIE` is 0, and at every
dispatch `OCR` is the reset value or a word the run has written completely. -/
def Obligations.InterruptsSeeOnlyWholeWordsInTheCompareRegister : Prop :=
  ∀ (cfg : Config) (is : List Instr) (u : State), runOps is (State.powerOn cfg) = some u →
    ((∃ m ∈ u.ctx, Critical m) → u.gie = false) ∧
      ∀ (x : Source) (v : State), exec x.instr u = .next v →
        ocr u = 0 ∨ ocr u ∈ wordsWritten is (State.powerOn cfg)

/-- `NESTING = true` is the adversarial setting (derived from 92_eei_decisions.md D3): whatever runs with `NESTING = false` runs
with `NESTING = true` and leaves the same state but for `GIE` and `sv`. -/
def Obligations.NestingSimulatesNoNesting : Prop :=
  ∀ (i : Instr) (s s' u : State), Inv s → Inv s' → s.cfg.nesting = false → SameButEnables s s' → exec i s = .next u →
    ∃ u' : State, exec i s' = .next u' ∧ SameButEnables u u'

/-! ### settle, frames and ticks -/

/-- `settle` (derived from 60_exceptions.md R162; its bound of 12 read as of states with no handler running, log 5; under a
permutation other than (SCK, CS, TOV) the order of `settle` is the model's own reading, log 4): after at most 12 operations the
state is quiescent. -/
def Obligations.SettleEndsWithinTwelveOperations : Prop :=
  ∀ s : State, s.ctx = [] → Quiescent (settleFor 12 s).2 ∧ (settleFor 12 s).1.length ≤ 12

/-- `settle` from any state of the invariant, handlers running or not, ends in a quiescent state, and the operations it
performs are a valid trace of the block's own (derived from 60_exceptions.md R162, R163; the bound is the model's, log 5, and
under a permutation other than (SCK, CS, TOV) so is the order of `settle`, log 4). -/
def Obligations.SettleReachesAQuiescentState : Prop :=
  ∀ s : State, Inv s →
    Quiescent (settle s).2 ∧ runOps (settle s).1 s = some (settle s).2 ∧ ∀ i ∈ (settle s).1, i.agent = .blk

/-- A tick from a quiescent started state (derived from 43_output_updater.md R124, R125): `OCR` and `old_value` become `value`,
with one register write if `value` differed from `old_value` and none otherwise. -/
def Obligations.TickAppliesTheLatchedWordWithOneWriteAtMost : Prop :=
  ∀ s : State, Inv s → s.started = true → Quiescent s →
    ∃ (is : List Instr) (u : State), runPseudo .tick s = some (is, u) ∧
      ocr u = s.value ∧ u.oldValue = s.value ∧ u.value = s.value ∧ Quiescent u ∧
      is.count .wlo = if s.value = s.oldValue then 0 else 1

/-- The pseudo-operation `frame w` from a quiescent started state with `bits = 0` and the clock low (derived from
70_reset_and_hazards.md R206, 41_bit_receiver.md R104 and 30_encoding.md R61, R70): the word is latched as sent, `OCR` is not
touched, and the expansion is well-timed. -/
def Obligations.FrameLatchesTheWordSent : Prop :=
  ∀ (s : State) (w : Word), Inv s → s.started = true → Quiescent s → s.sck = false → s.bits.toNat = 0 →
    ∃ (is : List Instr) (u : State), runPseudo (.frame w) s = some (is, u) ∧ WellTimed is s ∧
      u.value = w ∧ u.receive = 0 ∧ u.bits = 0 ∧ ocr u = ocr s ∧ Quiescent u

/-- Desynchronisation (derived from 42_frame_latch.md R117, 70_reset_and_hazards.md R200): with `RESET_ON_DISCARD = false` and
`n` stale bits the next frame latches the stale bits followed by its own first `16 - n`, and clears the count. -/
def Obligations.FrameAfterAShortFrameLatchesTheStaleBits : Prop :=
  ∀ (s : State) (w : Word), Inv s → s.started = true → Quiescent s → s.sck = false → s.cfg.resetOnDiscard = false →
    0 < s.bits.toNat → s.bits.toNat < 16 →
    ∃ (is : List Instr) (u : State), runPseudo (.frame w) s = some (is, u) ∧
      u.value.toNat = s.receive.toNat * 2 ^ (16 - s.bits.toNat) + w.toNat / 2 ^ s.bits.toNat ∧
      u.receive = 0 ∧ u.bits = 0

/-- The lost last bit (derived from 70_reset_and_hazards.md R196): with the 16th edge and the release pending together the frame
is lost in either dispatch order. -/
def Obligations.SixteenthEdgePendingWithTheReleaseLosesTheFrame : Prop :=
  ∀ s : State, Inv s → s.started = true → Quiescent s → s.cfg.prio = .any →
    s.csN = false → s.sck = false → s.bits.toNat = 15 →
    ∃ u : State,
      runOps [.sck true, .csn true, .irqSck, .rxbit, .irqCs, .flatch] s = some u ∧
      runOps [.sck true, .csn true, .irqCs, .flatch, .irqSck, .rxbit] s = some u ∧
      u.value = s.value ∧ u.bits.toNat = (if s.cfg.resetOnDiscard = true then 0 else 15) ∧
      u.receive = if s.cfg.resetOnDiscard = true then 0 else s.receive

/-- Coalescing (derived from 70_reset_and_hazards.md R194): two rising edges with no dispatch between them cause one run of the
Bit Receiver, and one bit at most is counted. -/
def Obligations.UndispatchedClockEdgesCoalesce : Prop :=
  ∀ s : State, Inv s → s.started = true → Quiescent s → s.sck = false →
    ∃ u : State, runOps [.sck true, .sck false, .sck true, .irqSck, .rxbit] s = some u ∧
      u.pfSck = false ∧ u.bits.toNat ≤ s.bits.toNat + 1 ∧
      ∀ v : State, exec .irqSck u ≠ .next v
end

