-- ==== Sys2Proof/Laws/State.lean ====
section
/-! SUPPORT. The fields of a state after each named update: one lemma per field per update. -/

namespace Sys2Proof.Machine

/-! ### setPc -/

@[simp] theorem setPc_receive (m : Micro) (s : State) : (setPc m s).receive = s.receive := rfl

@[simp] theorem setPc_bits (m : Micro) (s : State) : (setPc m s).bits = s.bits := rfl

@[simp] theorem setPc_value (m : Micro) (s : State) : (setPc m s).value = s.value := rfl

@[simp] theorem setPc_oldValue (m : Micro) (s : State) : (setPc m s).oldValue = s.oldValue := rfl

@[simp] theorem setPc_t (m : Micro) (s : State) : (setPc m s).t = s.t := rfl

@[simp] theorem setPc_sv (m : Micro) (s : State) : (setPc m s).sv = s.sv := rfl

@[simp] theorem setPc_ocrh (m : Micro) (s : State) : (setPc m s).ocrh = s.ocrh := rfl

@[simp] theorem setPc_ocrl (m : Micro) (s : State) : (setPc m s).ocrl = s.ocrl := rfl

@[simp] theorem setPc_gie (m : Micro) (s : State) : (setPc m s).gie = s.gie := rfl

@[simp] theorem setPc_pfSck (m : Micro) (s : State) : (setPc m s).pfSck = s.pfSck := rfl

@[simp] theorem setPc_pfCs (m : Micro) (s : State) : (setPc m s).pfCs = s.pfCs := rfl

@[simp] theorem setPc_pfTov (m : Micro) (s : State) : (setPc m s).pfTov = s.pfTov := rfl

@[simp] theorem setPc_started (m : Micro) (s : State) : (setPc m s).started = s.started := rfl

@[simp] theorem setPc_sdi (m : Micro) (s : State) : (setPc m s).sdi = s.sdi := rfl

@[simp] theorem setPc_sck (m : Micro) (s : State) : (setPc m s).sck = s.sck := rfl

@[simp] theorem setPc_csN (m : Micro) (s : State) : (setPc m s).csN = s.csN := rfl

@[simp] theorem setPc_ctx (m : Micro) (s : State) : (setPc m s).ctx = m :: s.ctx.tail := rfl

@[simp] theorem setPc_cfg (m : Micro) (s : State) : (setPc m s).cfg = s.cfg := rfl

@[simp] theorem setPc_trace (m : Micro) (s : State) : (setPc m s).trace = s.trace := rfl

@[simp] theorem setPc_pos (m : Micro) (s : State) : (setPc m s).pos = s.pos := rfl

/-! ### pushFrame -/

@[simp] theorem pushFrame_receive (m : Micro) (s : State) : (pushFrame m s).receive = s.receive := rfl

@[simp] theorem pushFrame_bits (m : Micro) (s : State) : (pushFrame m s).bits = s.bits := rfl

@[simp] theorem pushFrame_value (m : Micro) (s : State) : (pushFrame m s).value = s.value := rfl

@[simp] theorem pushFrame_oldValue (m : Micro) (s : State) : (pushFrame m s).oldValue = s.oldValue := rfl

@[simp] theorem pushFrame_t (m : Micro) (s : State) : (pushFrame m s).t = s.t := rfl

@[simp] theorem pushFrame_sv (m : Micro) (s : State) : (pushFrame m s).sv = s.sv := rfl

@[simp] theorem pushFrame_ocrh (m : Micro) (s : State) : (pushFrame m s).ocrh = s.ocrh := rfl

@[simp] theorem pushFrame_ocrl (m : Micro) (s : State) : (pushFrame m s).ocrl = s.ocrl := rfl

@[simp] theorem pushFrame_gie (m : Micro) (s : State) : (pushFrame m s).gie = s.gie := rfl

@[simp] theorem pushFrame_pfSck (m : Micro) (s : State) : (pushFrame m s).pfSck = s.pfSck := rfl

@[simp] theorem pushFrame_pfCs (m : Micro) (s : State) : (pushFrame m s).pfCs = s.pfCs := rfl

@[simp] theorem pushFrame_pfTov (m : Micro) (s : State) : (pushFrame m s).pfTov = s.pfTov := rfl

@[simp] theorem pushFrame_started (m : Micro) (s : State) : (pushFrame m s).started = s.started := rfl

@[simp] theorem pushFrame_sdi (m : Micro) (s : State) : (pushFrame m s).sdi = s.sdi := rfl

@[simp] theorem pushFrame_sck (m : Micro) (s : State) : (pushFrame m s).sck = s.sck := rfl

@[simp] theorem pushFrame_csN (m : Micro) (s : State) : (pushFrame m s).csN = s.csN := rfl

@[simp] theorem pushFrame_ctx (m : Micro) (s : State) : (pushFrame m s).ctx = m :: s.ctx := rfl

@[simp] theorem pushFrame_cfg (m : Micro) (s : State) : (pushFrame m s).cfg = s.cfg := rfl

@[simp] theorem pushFrame_trace (m : Micro) (s : State) : (pushFrame m s).trace = s.trace := rfl

@[simp] theorem pushFrame_pos (m : Micro) (s : State) : (pushFrame m s).pos = s.pos := rfl

/-! ### handlerReturn -/

@[simp] theorem handlerReturn_receive (s : State) : (handlerReturn s).receive = s.receive := rfl

@[simp] theorem handlerReturn_bits (s : State) : (handlerReturn s).bits = s.bits := rfl

@[simp] theorem handlerReturn_value (s : State) : (handlerReturn s).value = s.value := rfl

@[simp] theorem handlerReturn_oldValue (s : State) : (handlerReturn s).oldValue = s.oldValue := rfl

@[simp] theorem handlerReturn_t (s : State) : (handlerReturn s).t = s.t := rfl

@[simp] theorem handlerReturn_sv (s : State) : (handlerReturn s).sv = s.sv := rfl

@[simp] theorem handlerReturn_ocrh (s : State) : (handlerReturn s).ocrh = s.ocrh := rfl

@[simp] theorem handlerReturn_ocrl (s : State) : (handlerReturn s).ocrl = s.ocrl := rfl

@[simp] theorem handlerReturn_gie (s : State) : (handlerReturn s).gie = true := rfl

@[simp] theorem handlerReturn_pfSck (s : State) : (handlerReturn s).pfSck = s.pfSck := rfl

@[simp] theorem handlerReturn_pfCs (s : State) : (handlerReturn s).pfCs = s.pfCs := rfl

@[simp] theorem handlerReturn_pfTov (s : State) : (handlerReturn s).pfTov = s.pfTov := rfl

@[simp] theorem handlerReturn_started (s : State) : (handlerReturn s).started = s.started := rfl

@[simp] theorem handlerReturn_sdi (s : State) : (handlerReturn s).sdi = s.sdi := rfl

@[simp] theorem handlerReturn_sck (s : State) : (handlerReturn s).sck = s.sck := rfl

@[simp] theorem handlerReturn_csN (s : State) : (handlerReturn s).csN = s.csN := rfl

@[simp] theorem handlerReturn_ctx (s : State) : (handlerReturn s).ctx = s.ctx.tail := rfl

@[simp] theorem handlerReturn_cfg (s : State) : (handlerReturn s).cfg = s.cfg := rfl

@[simp] theorem handlerReturn_trace (s : State) : (handlerReturn s).trace = s.trace := rfl

@[simp] theorem handlerReturn_pos (s : State) : (handlerReturn s).pos = s.pos := rfl

/-! ### clearFrame -/

@[simp] theorem clearFrame_receive (s : State) : (clearFrame s).receive = 0 := rfl

@[simp] theorem clearFrame_bits (s : State) : (clearFrame s).bits = 0 := rfl

@[simp] theorem clearFrame_value (s : State) : (clearFrame s).value = s.value := rfl

@[simp] theorem clearFrame_oldValue (s : State) : (clearFrame s).oldValue = s.oldValue := rfl

@[simp] theorem clearFrame_t (s : State) : (clearFrame s).t = s.t := rfl

@[simp] theorem clearFrame_sv (s : State) : (clearFrame s).sv = s.sv := rfl

@[simp] theorem clearFrame_ocrh (s : State) : (clearFrame s).ocrh = s.ocrh := rfl

@[simp] theorem clearFrame_ocrl (s : State) : (clearFrame s).ocrl = s.ocrl := rfl

@[simp] theorem clearFrame_gie (s : State) : (clearFrame s).gie = s.gie := rfl

@[simp] theorem clearFrame_pfSck (s : State) : (clearFrame s).pfSck = s.pfSck := rfl

@[simp] theorem clearFrame_pfCs (s : State) : (clearFrame s).pfCs = s.pfCs := rfl

@[simp] theorem clearFrame_pfTov (s : State) : (clearFrame s).pfTov = s.pfTov := rfl

@[simp] theorem clearFrame_started (s : State) : (clearFrame s).started = s.started := rfl

@[simp] theorem clearFrame_sdi (s : State) : (clearFrame s).sdi = s.sdi := rfl

@[simp] theorem clearFrame_sck (s : State) : (clearFrame s).sck = s.sck := rfl

@[simp] theorem clearFrame_csN (s : State) : (clearFrame s).csN = s.csN := rfl

@[simp] theorem clearFrame_ctx (s : State) : (clearFrame s).ctx = s.ctx := rfl

@[simp] theorem clearFrame_cfg (s : State) : (clearFrame s).cfg = s.cfg := rfl

@[simp] theorem clearFrame_trace (s : State) : (clearFrame s).trace = s.trace := rfl

@[simp] theorem clearFrame_pos (s : State) : (clearFrame s).pos = s.pos := rfl

/-! ### consume -/

@[simp] theorem consume_receive (s : State) : (consume s).receive = s.receive := rfl

@[simp] theorem consume_bits (s : State) : (consume s).bits = s.bits := rfl

@[simp] theorem consume_value (s : State) : (consume s).value = s.value := rfl

@[simp] theorem consume_oldValue (s : State) : (consume s).oldValue = s.oldValue := rfl

@[simp] theorem consume_t (s : State) : (consume s).t = s.t := rfl

@[simp] theorem consume_sv (s : State) : (consume s).sv = s.sv := rfl

@[simp] theorem consume_ocrh (s : State) : (consume s).ocrh = s.ocrh := rfl

@[simp] theorem consume_ocrl (s : State) : (consume s).ocrl = s.ocrl := rfl

@[simp] theorem consume_gie (s : State) : (consume s).gie = s.gie := rfl

@[simp] theorem consume_pfSck (s : State) : (consume s).pfSck = s.pfSck := rfl

@[simp] theorem consume_pfCs (s : State) : (consume s).pfCs = s.pfCs := rfl

@[simp] theorem consume_pfTov (s : State) : (consume s).pfTov = s.pfTov := rfl

@[simp] theorem consume_started (s : State) : (consume s).started = s.started := rfl

@[simp] theorem consume_sdi (s : State) : (consume s).sdi = s.sdi := rfl

@[simp] theorem consume_sck (s : State) : (consume s).sck = s.sck := rfl

@[simp] theorem consume_csN (s : State) : (consume s).csN = s.csN := rfl

@[simp] theorem consume_ctx (s : State) : (consume s).ctx = s.ctx := rfl

@[simp] theorem consume_cfg (s : State) : (consume s).cfg = s.cfg := rfl

@[simp] theorem consume_trace (s : State) : (consume s).trace = s.trace.tail := rfl

@[simp] theorem consume_pos (s : State) : (consume s).pos = s.pos + 1 := rfl

/-! ### storeCode -/

@[simp] theorem storeCode_receive (c : Byte) (s : State) : (storeCode c s).receive = s.receive := rfl

@[simp] theorem storeCode_bits (c : Byte) (s : State) : (storeCode c s).bits = s.bits := rfl

@[simp] theorem storeCode_value (c : Byte) (s : State) : (storeCode c s).value = s.value := rfl

@[simp] theorem storeCode_oldValue (c : Byte) (s : State) : (storeCode c s).oldValue = s.oldValue := rfl

@[simp] theorem storeCode_t (c : Byte) (s : State) : (storeCode c s).t = s.t := rfl

@[simp] theorem storeCode_sv (c : Byte) (s : State) : (storeCode c s).sv = s.sv := rfl

@[simp] theorem storeCode_ocrh (c : Byte) (s : State) : (storeCode c s).ocrh = s.ocrh := rfl

@[simp] theorem storeCode_ocrl (c : Byte) (s : State) : (storeCode c s).ocrl = s.ocrl := rfl

@[simp] theorem storeCode_gie (c : Byte) (s : State) : (storeCode c s).gie = s.gie := rfl

@[simp] theorem storeCode_pfSck (c : Byte) (s : State) : (storeCode c s).pfSck = s.pfSck := rfl

@[simp] theorem storeCode_pfCs (c : Byte) (s : State) : (storeCode c s).pfCs = s.pfCs := rfl

@[simp] theorem storeCode_pfTov (c : Byte) (s : State) : (storeCode c s).pfTov = s.pfTov := rfl

@[simp] theorem storeCode_started (c : Byte) (s : State) : (storeCode c s).started = s.started := rfl

@[simp] theorem storeCode_sdi (c : Byte) (s : State) : (storeCode c s).sdi = s.sdi := rfl

@[simp] theorem storeCode_sck (c : Byte) (s : State) : (storeCode c s).sck = s.sck := rfl

@[simp] theorem storeCode_csN (c : Byte) (s : State) : (storeCode c s).csN = s.csN := rfl

@[simp] theorem storeCode_ctx (c : Byte) (s : State) : (storeCode c s).ctx = s.ctx := rfl

@[simp] theorem storeCode_cfg (c : Byte) (s : State) : (storeCode c s).cfg = s.cfg := rfl

@[simp] theorem storeCode_trace (c : Byte) (s : State) : (storeCode c s).trace = c :: s.trace.tail := rfl

@[simp] theorem storeCode_pos (c : Byte) (s : State) : (storeCode c s).pos = s.pos := rfl

/-! ### arrangeMicro -/

@[simp] theorem arrangeMicro_receive (m : Micro) (s : State) : (arrangeMicro m s).receive = s.receive := rfl

@[simp] theorem arrangeMicro_bits (m : Micro) (s : State) : (arrangeMicro m s).bits = s.bits := rfl

@[simp] theorem arrangeMicro_value (m : Micro) (s : State) : (arrangeMicro m s).value = s.value := rfl

@[simp] theorem arrangeMicro_oldValue (m : Micro) (s : State) : (arrangeMicro m s).oldValue = s.oldValue := rfl

@[simp] theorem arrangeMicro_t (m : Micro) (s : State) : (arrangeMicro m s).t = s.t := rfl

@[simp] theorem arrangeMicro_sv (m : Micro) (s : State) : (arrangeMicro m s).sv = s.sv := rfl

@[simp] theorem arrangeMicro_ocrh (m : Micro) (s : State) : (arrangeMicro m s).ocrh = s.ocrh := rfl

@[simp] theorem arrangeMicro_ocrl (m : Micro) (s : State) : (arrangeMicro m s).ocrl = s.ocrl := rfl

@[simp] theorem arrangeMicro_gie (m : Micro) (s : State) : (arrangeMicro m s).gie = s.gie := rfl

@[simp] theorem arrangeMicro_pfSck (m : Micro) (s : State) : (arrangeMicro m s).pfSck = s.pfSck := rfl

@[simp] theorem arrangeMicro_pfCs (m : Micro) (s : State) : (arrangeMicro m s).pfCs = s.pfCs := rfl

@[simp] theorem arrangeMicro_pfTov (m : Micro) (s : State) : (arrangeMicro m s).pfTov = s.pfTov := rfl

@[simp] theorem arrangeMicro_started (m : Micro) (s : State) : (arrangeMicro m s).started = s.started := rfl

@[simp] theorem arrangeMicro_sdi (m : Micro) (s : State) : (arrangeMicro m s).sdi = s.sdi := rfl

@[simp] theorem arrangeMicro_sck (m : Micro) (s : State) : (arrangeMicro m s).sck = s.sck := rfl

@[simp] theorem arrangeMicro_csN (m : Micro) (s : State) : (arrangeMicro m s).csN = s.csN := rfl

@[simp] theorem arrangeMicro_ctx (m : Micro) (s : State) : (arrangeMicro m s).ctx = m :: otherFrames m.handler s.ctx := rfl

@[simp] theorem arrangeMicro_cfg (m : Micro) (s : State) : (arrangeMicro m s).cfg = s.cfg := rfl

@[simp] theorem arrangeMicro_trace (m : Micro) (s : State) : (arrangeMicro m s).trace = s.trace := rfl

@[simp] theorem arrangeMicro_pos (m : Micro) (s : State) : (arrangeMicro m s).pos = s.pos := rfl

/-! ### writePending -/

@[simp] theorem writePending_receive (x : Source) (v : Level) (s : State) : (writePending x v s).receive = s.receive := by
  cases x <;> rfl

@[simp] theorem writePending_bits (x : Source) (v : Level) (s : State) : (writePending x v s).bits = s.bits := by
  cases x <;> rfl

@[simp] theorem writePending_value (x : Source) (v : Level) (s : State) : (writePending x v s).value = s.value := by
  cases x <;> rfl

@[simp] theorem writePending_oldValue (x : Source) (v : Level) (s : State) : (writePending x v s).oldValue = s.oldValue := by
  cases x <;> rfl

@[simp] theorem writePending_t (x : Source) (v : Level) (s : State) : (writePending x v s).t = s.t := by
  cases x <;> rfl

@[simp] theorem writePending_sv (x : Source) (v : Level) (s : State) : (writePending x v s).sv = s.sv := by
  cases x <;> rfl

@[simp] theorem writePending_ocrh (x : Source) (v : Level) (s : State) : (writePending x v s).ocrh = s.ocrh := by
  cases x <;> rfl

@[simp] theorem writePending_ocrl (x : Source) (v : Level) (s : State) : (writePending x v s).ocrl = s.ocrl := by
  cases x <;> rfl

@[simp] theorem writePending_gie (x : Source) (v : Level) (s : State) : (writePending x v s).gie = s.gie := by
  cases x <;> rfl

@[simp] theorem writePending_pfSck (x : Source) (v : Level) (s : State) :
    (writePending x v s).pfSck = if x = .sck then v else s.pfSck := by cases x <;> rfl

@[simp] theorem writePending_pfCs (x : Source) (v : Level) (s : State) :
    (writePending x v s).pfCs = if x = .cs then v else s.pfCs := by cases x <;> rfl

@[simp] theorem writePending_pfTov (x : Source) (v : Level) (s : State) :
    (writePending x v s).pfTov = if x = .tov then v else s.pfTov := by cases x <;> rfl

@[simp] theorem writePending_started (x : Source) (v : Level) (s : State) : (writePending x v s).started = s.started := by
  cases x <;> rfl

@[simp] theorem writePending_sdi (x : Source) (v : Level) (s : State) : (writePending x v s).sdi = s.sdi := by
  cases x <;> rfl

@[simp] theorem writePending_sck (x : Source) (v : Level) (s : State) : (writePending x v s).sck = s.sck := by
  cases x <;> rfl

@[simp] theorem writePending_csN (x : Source) (v : Level) (s : State) : (writePending x v s).csN = s.csN := by
  cases x <;> rfl

@[simp] theorem writePending_ctx (x : Source) (v : Level) (s : State) : (writePending x v s).ctx = s.ctx := by
  cases x <;> rfl

@[simp] theorem writePending_cfg (x : Source) (v : Level) (s : State) : (writePending x v s).cfg = s.cfg := by
  cases x <;> rfl

@[simp] theorem writePending_trace (x : Source) (v : Level) (s : State) : (writePending x v s).trace = s.trace := by
  cases x <;> rfl

@[simp] theorem writePending_pos (x : Source) (v : Level) (s : State) : (writePending x v s).pos = s.pos := by
  cases x <;> rfl

/-! ### memWrite -/

@[simp] theorem memWrite_receive (c : IoCell) (v : Byte) (s : State) : (memWrite c v s).receive = s.receive := by
  cases c <;> rfl

@[simp] theorem memWrite_bits (c : IoCell) (v : Byte) (s : State) : (memWrite c v s).bits = s.bits := by
  cases c <;> rfl

@[simp] theorem memWrite_value (c : IoCell) (v : Byte) (s : State) : (memWrite c v s).value = s.value := by
  cases c <;> rfl

@[simp] theorem memWrite_oldValue (c : IoCell) (v : Byte) (s : State) : (memWrite c v s).oldValue = s.oldValue := by
  cases c <;> rfl

@[simp] theorem memWrite_t (c : IoCell) (v : Byte) (s : State) : (memWrite c v s).t = s.t := by
  cases c <;> rfl

@[simp] theorem memWrite_sv (c : IoCell) (v : Byte) (s : State) : (memWrite c v s).sv = s.sv := by
  cases c <;> rfl

@[simp] theorem memWrite_ocrh (c : IoCell) (v : Byte) (s : State) :
    (memWrite c v s).ocrh = if c = .ocrh then v else s.ocrh := by cases c <;> rfl

@[simp] theorem memWrite_ocrl (c : IoCell) (v : Byte) (s : State) :
    (memWrite c v s).ocrl = if c = .ocrl then v else s.ocrl := by cases c <;> rfl

@[simp] theorem memWrite_gie (c : IoCell) (v : Byte) (s : State) : (memWrite c v s).gie = s.gie := by
  cases c <;> rfl

@[simp] theorem memWrite_pfSck (c : IoCell) (v : Byte) (s : State) : (memWrite c v s).pfSck = s.pfSck := by
  cases c <;> rfl

@[simp] theorem memWrite_pfCs (c : IoCell) (v : Byte) (s : State) : (memWrite c v s).pfCs = s.pfCs := by
  cases c <;> rfl

@[simp] theorem memWrite_pfTov (c : IoCell) (v : Byte) (s : State) : (memWrite c v s).pfTov = s.pfTov := by
  cases c <;> rfl

@[simp] theorem memWrite_started (c : IoCell) (v : Byte) (s : State) : (memWrite c v s).started = s.started := by
  cases c <;> rfl

@[simp] theorem memWrite_sdi (c : IoCell) (v : Byte) (s : State) : (memWrite c v s).sdi = s.sdi := by
  cases c <;> rfl

@[simp] theorem memWrite_sck (c : IoCell) (v : Byte) (s : State) : (memWrite c v s).sck = s.sck := by
  cases c <;> rfl

@[simp] theorem memWrite_csN (c : IoCell) (v : Byte) (s : State) : (memWrite c v s).csN = s.csN := by
  cases c <;> rfl

@[simp] theorem memWrite_ctx (c : IoCell) (v : Byte) (s : State) : (memWrite c v s).ctx = s.ctx := by
  cases c <;> rfl

@[simp] theorem memWrite_cfg (c : IoCell) (v : Byte) (s : State) : (memWrite c v s).cfg = s.cfg := by
  cases c <;> rfl

@[simp] theorem memWrite_trace (c : IoCell) (v : Byte) (s : State) : (memWrite c v s).trace = s.trace := by
  cases c <;> rfl

@[simp] theorem memWrite_pos (c : IoCell) (v : Byte) (s : State) : (memWrite c v s).pos = s.pos := by
  cases c <;> rfl

/-! ### pinWrite -/

@[simp] theorem pinWrite_receive (p : Pin) (l : Level) (s : State) : (pinWrite p l s).receive = s.receive := by cases p <;> rfl

@[simp] theorem pinWrite_bits (p : Pin) (l : Level) (s : State) : (pinWrite p l s).bits = s.bits := by cases p <;> rfl

@[simp] theorem pinWrite_value (p : Pin) (l : Level) (s : State) : (pinWrite p l s).value = s.value := by cases p <;> rfl

@[simp] theorem pinWrite_oldValue (p : Pin) (l : Level) (s : State) : (pinWrite p l s).oldValue = s.oldValue := by cases p <;> rfl

@[simp] theorem pinWrite_t (p : Pin) (l : Level) (s : State) : (pinWrite p l s).t = s.t := by cases p <;> rfl

@[simp] theorem pinWrite_sv (p : Pin) (l : Level) (s : State) : (pinWrite p l s).sv = s.sv := by cases p <;> rfl

@[simp] theorem pinWrite_ocrh (p : Pin) (l : Level) (s : State) : (pinWrite p l s).ocrh = s.ocrh := by cases p <;> rfl

@[simp] theorem pinWrite_ocrl (p : Pin) (l : Level) (s : State) : (pinWrite p l s).ocrl = s.ocrl := by cases p <;> rfl

@[simp] theorem pinWrite_gie (p : Pin) (l : Level) (s : State) : (pinWrite p l s).gie = s.gie := by cases p <;> rfl

@[simp] theorem pinWrite_pfSck (p : Pin) (l : Level) (s : State) : (pinWrite p l s).pfSck = s.pfSck := by cases p <;> rfl

@[simp] theorem pinWrite_pfCs (p : Pin) (l : Level) (s : State) : (pinWrite p l s).pfCs = s.pfCs := by cases p <;> rfl

@[simp] theorem pinWrite_pfTov (p : Pin) (l : Level) (s : State) : (pinWrite p l s).pfTov = s.pfTov := by cases p <;> rfl

@[simp] theorem pinWrite_started (p : Pin) (l : Level) (s : State) : (pinWrite p l s).started = s.started := by cases p <;> rfl

@[simp] theorem pinWrite_sdi (p : Pin) (l : Level) (s : State) :
    (pinWrite p l s).sdi = if p = .sdi then l else s.sdi := by cases p <;> rfl

@[simp] theorem pinWrite_sck (p : Pin) (l : Level) (s : State) :
    (pinWrite p l s).sck = if p = .sck then l else s.sck := by cases p <;> rfl

@[simp] theorem pinWrite_csN (p : Pin) (l : Level) (s : State) :
    (pinWrite p l s).csN = if p = .csN then l else s.csN := by cases p <;> rfl

@[simp] theorem pinWrite_ctx (p : Pin) (l : Level) (s : State) : (pinWrite p l s).ctx = s.ctx := by cases p <;> rfl

@[simp] theorem pinWrite_cfg (p : Pin) (l : Level) (s : State) : (pinWrite p l s).cfg = s.cfg := by cases p <;> rfl

@[simp] theorem pinWrite_trace (p : Pin) (l : Level) (s : State) : (pinWrite p l s).trace = s.trace := by cases p <;> rfl

@[simp] theorem pinWrite_pos (p : Pin) (l : Level) (s : State) : (pinWrite p l s).pos = s.pos := by cases p <;> rfl

/-! ### request -/

@[simp] theorem request_receive (x : Source) (b : Bool) (s : State) : (request x b s).receive = s.receive := by simp [request]

@[simp] theorem request_bits (x : Source) (b : Bool) (s : State) : (request x b s).bits = s.bits := by simp [request]

@[simp] theorem request_value (x : Source) (b : Bool) (s : State) : (request x b s).value = s.value := by simp [request]

@[simp] theorem request_oldValue (x : Source) (b : Bool) (s : State) : (request x b s).oldValue = s.oldValue := by simp [request]

@[simp] theorem request_t (x : Source) (b : Bool) (s : State) : (request x b s).t = s.t := by simp [request]

@[simp] theorem request_sv (x : Source) (b : Bool) (s : State) : (request x b s).sv = s.sv := by simp [request]

@[simp] theorem request_ocrh (x : Source) (b : Bool) (s : State) : (request x b s).ocrh = s.ocrh := by simp [request]

@[simp] theorem request_ocrl (x : Source) (b : Bool) (s : State) : (request x b s).ocrl = s.ocrl := by simp [request]

@[simp] theorem request_gie (x : Source) (b : Bool) (s : State) : (request x b s).gie = s.gie := by simp [request]

@[simp] theorem request_pfSck (x : Source) (b : Bool) (s : State) :
    (request x b s).pfSck = (s.pfSck || (decide (x = .sck) && b && s.started)) := by
  cases x <;> simp [request, pending]

@[simp] theorem request_pfCs (x : Source) (b : Bool) (s : State) :
    (request x b s).pfCs = (s.pfCs || (decide (x = .cs) && b && s.started)) := by
  cases x <;> simp [request, pending]

@[simp] theorem request_pfTov (x : Source) (b : Bool) (s : State) :
    (request x b s).pfTov = (s.pfTov || (decide (x = .tov) && b && s.started)) := by
  cases x <;> simp [request, pending]

@[simp] theorem request_started (x : Source) (b : Bool) (s : State) : (request x b s).started = s.started := by simp [request]

@[simp] theorem request_sdi (x : Source) (b : Bool) (s : State) : (request x b s).sdi = s.sdi := by simp [request]

@[simp] theorem request_sck (x : Source) (b : Bool) (s : State) : (request x b s).sck = s.sck := by simp [request]

@[simp] theorem request_csN (x : Source) (b : Bool) (s : State) : (request x b s).csN = s.csN := by simp [request]

@[simp] theorem request_ctx (x : Source) (b : Bool) (s : State) : (request x b s).ctx = s.ctx := by simp [request]

@[simp] theorem request_cfg (x : Source) (b : Bool) (s : State) : (request x b s).cfg = s.cfg := by simp [request]

@[simp] theorem request_trace (x : Source) (b : Bool) (s : State) : (request x b s).trace = s.trace := by simp [request]

@[simp] theorem request_pos (x : Source) (b : Bool) (s : State) : (request x b s).pos = s.pos := by simp [request]

/-! ### takeInterrupt -/

@[simp] theorem takeInterrupt_receive (x : Source) (s : State) : (takeInterrupt x s).receive = s.receive := by
  cases x <;> simp only [takeInterrupt] <;> split <;> simp_all

@[simp] theorem takeInterrupt_bits (x : Source) (s : State) : (takeInterrupt x s).bits = s.bits := by
  cases x <;> simp only [takeInterrupt] <;> split <;> simp_all

@[simp] theorem takeInterrupt_value (x : Source) (s : State) : (takeInterrupt x s).value = s.value := by
  cases x <;> simp only [takeInterrupt] <;> split <;> simp_all

@[simp] theorem takeInterrupt_oldValue (x : Source) (s : State) : (takeInterrupt x s).oldValue = s.oldValue := by
  cases x <;> simp only [takeInterrupt] <;> split <;> simp_all

@[simp] theorem takeInterrupt_t (x : Source) (s : State) : (takeInterrupt x s).t = s.t := by
  cases x <;> simp only [takeInterrupt] <;> split <;> simp_all

@[simp] theorem takeInterrupt_sv (x : Source) (s : State) : (takeInterrupt x s).sv = s.sv := by
  cases x <;> simp only [takeInterrupt] <;> split <;> simp_all

@[simp] theorem takeInterrupt_ocrh (x : Source) (s : State) : (takeInterrupt x s).ocrh = s.ocrh := by
  cases x <;> simp only [takeInterrupt] <;> split <;> simp_all

@[simp] theorem takeInterrupt_ocrl (x : Source) (s : State) : (takeInterrupt x s).ocrl = s.ocrl := by
  cases x <;> simp only [takeInterrupt] <;> split <;> simp_all

@[simp] theorem takeInterrupt_gie (x : Source) (s : State) : (takeInterrupt x s).gie = (s.cfg.nesting && s.gie) := by
  cases x <;> simp only [takeInterrupt] <;> split <;> simp_all

@[simp] theorem takeInterrupt_pfSck (x : Source) (s : State) : (takeInterrupt x s).pfSck = if x = .sck then false else s.pfSck := by
  cases x <;> simp only [takeInterrupt] <;> split <;> simp_all

@[simp] theorem takeInterrupt_pfCs (x : Source) (s : State) : (takeInterrupt x s).pfCs = if x = .cs then false else s.pfCs := by
  cases x <;> simp only [takeInterrupt] <;> split <;> simp_all

@[simp] theorem takeInterrupt_pfTov (x : Source) (s : State) : (takeInterrupt x s).pfTov = if x = .tov then false else s.pfTov := by
  cases x <;> simp only [takeInterrupt] <;> split <;> simp_all

@[simp] theorem takeInterrupt_started (x : Source) (s : State) : (takeInterrupt x s).started = s.started := by
  cases x <;> simp only [takeInterrupt] <;> split <;> simp_all

@[simp] theorem takeInterrupt_sdi (x : Source) (s : State) : (takeInterrupt x s).sdi = s.sdi := by
  cases x <;> simp only [takeInterrupt] <;> split <;> simp_all

@[simp] theorem takeInterrupt_sck (x : Source) (s : State) : (takeInterrupt x s).sck = s.sck := by
  cases x <;> simp only [takeInterrupt] <;> split <;> simp_all

@[simp] theorem takeInterrupt_csN (x : Source) (s : State) : (takeInterrupt x s).csN = s.csN := by
  cases x <;> simp only [takeInterrupt] <;> split <;> simp_all

@[simp] theorem takeInterrupt_ctx (x : Source) (s : State) : (takeInterrupt x s).ctx = x.entry :: s.ctx := by
  cases x <;> simp only [takeInterrupt] <;> split <;> simp_all

@[simp] theorem takeInterrupt_cfg (x : Source) (s : State) : (takeInterrupt x s).cfg = s.cfg := by
  cases x <;> simp only [takeInterrupt] <;> split <;> simp_all

@[simp] theorem takeInterrupt_trace (x : Source) (s : State) : (takeInterrupt x s).trace = s.trace := by
  cases x <;> simp only [takeInterrupt] <;> split <;> simp_all

@[simp] theorem takeInterrupt_pos (x : Source) (s : State) : (takeInterrupt x s).pos = s.pos := by
  cases x <;> simp only [takeInterrupt] <;> split <;> simp_all

/-! ### receiveBit -/

@[simp] theorem receiveBit_receive (s : State) : (receiveBit s).receive = if acceptsBit s = true then shiftIn s.receive s.sdi else s.receive := by
  unfold receiveBit; split <;> rfl

@[simp] theorem receiveBit_bits (s : State) : (receiveBit s).bits = if acceptsBit s = true then s.bits + 1 else s.bits := by
  unfold receiveBit; split <;> rfl

@[simp] theorem receiveBit_value (s : State) : (receiveBit s).value = s.value := by
  unfold receiveBit; split <;> rfl

@[simp] theorem receiveBit_oldValue (s : State) : (receiveBit s).oldValue = s.oldValue := by
  unfold receiveBit; split <;> rfl

@[simp] theorem receiveBit_t (s : State) : (receiveBit s).t = s.t := by
  unfold receiveBit; split <;> rfl

@[simp] theorem receiveBit_sv (s : State) : (receiveBit s).sv = s.sv := by
  unfold receiveBit; split <;> rfl

@[simp] theorem receiveBit_ocrh (s : State) : (receiveBit s).ocrh = s.ocrh := by
  unfold receiveBit; split <;> rfl

@[simp] theorem receiveBit_ocrl (s : State) : (receiveBit s).ocrl = s.ocrl := by
  unfold receiveBit; split <;> rfl

@[simp] theorem receiveBit_gie (s : State) : (receiveBit s).gie = s.gie := by
  unfold receiveBit; split <;> rfl

@[simp] theorem receiveBit_pfSck (s : State) : (receiveBit s).pfSck = s.pfSck := by
  unfold receiveBit; split <;> rfl

@[simp] theorem receiveBit_pfCs (s : State) : (receiveBit s).pfCs = s.pfCs := by
  unfold receiveBit; split <;> rfl

@[simp] theorem receiveBit_pfTov (s : State) : (receiveBit s).pfTov = s.pfTov := by
  unfold receiveBit; split <;> rfl

@[simp] theorem receiveBit_started (s : State) : (receiveBit s).started = s.started := by
  unfold receiveBit; split <;> rfl

@[simp] theorem receiveBit_sdi (s : State) : (receiveBit s).sdi = s.sdi := by
  unfold receiveBit; split <;> rfl

@[simp] theorem receiveBit_sck (s : State) : (receiveBit s).sck = s.sck := by
  unfold receiveBit; split <;> rfl

@[simp] theorem receiveBit_csN (s : State) : (receiveBit s).csN = s.csN := by
  unfold receiveBit; split <;> rfl

@[simp] theorem receiveBit_ctx (s : State) : (receiveBit s).ctx = s.ctx := by
  unfold receiveBit; split <;> rfl

@[simp] theorem receiveBit_cfg (s : State) : (receiveBit s).cfg = s.cfg := by
  unfold receiveBit; split <;> rfl

@[simp] theorem receiveBit_trace (s : State) : (receiveBit s).trace = s.trace := by
  unfold receiveBit; split <;> rfl

@[simp] theorem receiveBit_pos (s : State) : (receiveBit s).pos = s.pos := by
  unfold receiveBit; split <;> rfl

/-! ### latchFrame -/

@[simp] theorem latchFrame_receive (s : State) :
    (latchFrame s).receive = if s.bits = fullCount ∨ s.cfg.resetOnDiscard = true then 0 else s.receive := by
  unfold latchFrame; split_ifs <;> simp_all

@[simp] theorem latchFrame_bits (s : State) :
    (latchFrame s).bits = if s.bits = fullCount ∨ s.cfg.resetOnDiscard = true then 0 else s.bits := by
  unfold latchFrame; split_ifs <;> simp_all

@[simp] theorem latchFrame_value (s : State) :
    (latchFrame s).value = if s.bits = fullCount then s.receive else s.value := by
  unfold latchFrame; split_ifs <;> simp_all

@[simp] theorem latchFrame_oldValue (s : State) :
    (latchFrame s).oldValue = s.oldValue := by
  unfold latchFrame; split_ifs <;> simp_all

@[simp] theorem latchFrame_t (s : State) :
    (latchFrame s).t = s.t := by
  unfold latchFrame; split_ifs <;> simp_all

@[simp] theorem latchFrame_sv (s : State) :
    (latchFrame s).sv = s.sv := by
  unfold latchFrame; split_ifs <;> simp_all

@[simp] theorem latchFrame_ocrh (s : State) :
    (latchFrame s).ocrh = s.ocrh := by
  unfold latchFrame; split_ifs <;> simp_all

@[simp] theorem latchFrame_ocrl (s : State) :
    (latchFrame s).ocrl = s.ocrl := by
  unfold latchFrame; split_ifs <;> simp_all

@[simp] theorem latchFrame_gie (s : State) :
    (latchFrame s).gie = s.gie := by
  unfold latchFrame; split_ifs <;> simp_all

@[simp] theorem latchFrame_pfSck (s : State) :
    (latchFrame s).pfSck = s.pfSck := by
  unfold latchFrame; split_ifs <;> simp_all

@[simp] theorem latchFrame_pfCs (s : State) :
    (latchFrame s).pfCs = s.pfCs := by
  unfold latchFrame; split_ifs <;> simp_all

@[simp] theorem latchFrame_pfTov (s : State) :
    (latchFrame s).pfTov = s.pfTov := by
  unfold latchFrame; split_ifs <;> simp_all

@[simp] theorem latchFrame_started (s : State) :
    (latchFrame s).started = s.started := by
  unfold latchFrame; split_ifs <;> simp_all

@[simp] theorem latchFrame_sdi (s : State) :
    (latchFrame s).sdi = s.sdi := by
  unfold latchFrame; split_ifs <;> simp_all

@[simp] theorem latchFrame_sck (s : State) :
    (latchFrame s).sck = s.sck := by
  unfold latchFrame; split_ifs <;> simp_all

@[simp] theorem latchFrame_csN (s : State) :
    (latchFrame s).csN = s.csN := by
  unfold latchFrame; split_ifs <;> simp_all

@[simp] theorem latchFrame_ctx (s : State) :
    (latchFrame s).ctx = s.ctx := by
  unfold latchFrame; split_ifs <;> simp_all

@[simp] theorem latchFrame_cfg (s : State) :
    (latchFrame s).cfg = s.cfg := by
  unfold latchFrame; split_ifs <;> simp_all

@[simp] theorem latchFrame_trace (s : State) :
    (latchFrame s).trace = s.trace := by
  unfold latchFrame; split_ifs <;> simp_all

@[simp] theorem latchFrame_pos (s : State) :
    (latchFrame s).pos = s.pos := by
  unfold latchFrame; split_ifs <;> simp_all

/-! ### compareValue -/

@[simp] theorem compareValue_receive (s : State) :
    (compareValue s).receive = s.receive := by
  simp only [compareValue]; split <;> rfl

@[simp] theorem compareValue_bits (s : State) :
    (compareValue s).bits = s.bits := by
  simp only [compareValue]; split <;> rfl

@[simp] theorem compareValue_value (s : State) :
    (compareValue s).value = s.value := by
  simp only [compareValue]; split <;> rfl

@[simp] theorem compareValue_oldValue (s : State) :
    (compareValue s).oldValue = s.oldValue := by
  simp only [compareValue]; split <;> rfl

@[simp] theorem compareValue_t (s : State) :
    (compareValue s).t = s.value := by
  simp only [compareValue]; split <;> rfl

@[simp] theorem compareValue_sv (s : State) :
    (compareValue s).sv = s.sv := by
  simp only [compareValue]; split <;> rfl

@[simp] theorem compareValue_ocrh (s : State) :
    (compareValue s).ocrh = s.ocrh := by
  simp only [compareValue]; split <;> rfl

@[simp] theorem compareValue_ocrl (s : State) :
    (compareValue s).ocrl = s.ocrl := by
  simp only [compareValue]; split <;> rfl

@[simp] theorem compareValue_gie (s : State) :
    (compareValue s).gie = if s.value = s.oldValue then true else s.gie := by
  simp only [compareValue]; split <;> rfl

@[simp] theorem compareValue_pfSck (s : State) :
    (compareValue s).pfSck = s.pfSck := by
  simp only [compareValue]; split <;> rfl

@[simp] theorem compareValue_pfCs (s : State) :
    (compareValue s).pfCs = s.pfCs := by
  simp only [compareValue]; split <;> rfl

@[simp] theorem compareValue_pfTov (s : State) :
    (compareValue s).pfTov = s.pfTov := by
  simp only [compareValue]; split <;> rfl

@[simp] theorem compareValue_started (s : State) :
    (compareValue s).started = s.started := by
  simp only [compareValue]; split <;> rfl

@[simp] theorem compareValue_sdi (s : State) :
    (compareValue s).sdi = s.sdi := by
  simp only [compareValue]; split <;> rfl

@[simp] theorem compareValue_sck (s : State) :
    (compareValue s).sck = s.sck := by
  simp only [compareValue]; split <;> rfl

@[simp] theorem compareValue_csN (s : State) :
    (compareValue s).csN = s.csN := by
  simp only [compareValue]; split <;> rfl

@[simp] theorem compareValue_ctx (s : State) :
    (compareValue s).ctx = if s.value = s.oldValue then s.ctx.tail else .wsave :: s.ctx.tail := by
  simp only [compareValue]; split <;> rfl

@[simp] theorem compareValue_cfg (s : State) :
    (compareValue s).cfg = s.cfg := by
  simp only [compareValue]; split <;> rfl

@[simp] theorem compareValue_trace (s : State) :
    (compareValue s).trace = s.trace := by
  simp only [compareValue]; split <;> rfl

@[simp] theorem compareValue_pos (s : State) :
    (compareValue s).pos = s.pos := by
  simp only [compareValue]; split <;> rfl

/-! ### resetEffect -/

@[simp] theorem resetEffect_receive (s : State) : (resetEffect s).receive = 0 := rfl

@[simp] theorem resetEffect_bits (s : State) : (resetEffect s).bits = 0 := rfl

@[simp] theorem resetEffect_value (s : State) : (resetEffect s).value = 0 := rfl

@[simp] theorem resetEffect_oldValue (s : State) : (resetEffect s).oldValue = 0 := rfl

@[simp] theorem resetEffect_t (s : State) : (resetEffect s).t = 0 := rfl

@[simp] theorem resetEffect_sv (s : State) : (resetEffect s).sv = false := rfl

@[simp] theorem resetEffect_ocrh (s : State) : (resetEffect s).ocrh = 0 := rfl

@[simp] theorem resetEffect_ocrl (s : State) : (resetEffect s).ocrl = 0 := rfl

@[simp] theorem resetEffect_gie (s : State) : (resetEffect s).gie = false := rfl

@[simp] theorem resetEffect_pfSck (s : State) : (resetEffect s).pfSck = false := rfl

@[simp] theorem resetEffect_pfCs (s : State) : (resetEffect s).pfCs = false := rfl

@[simp] theorem resetEffect_pfTov (s : State) : (resetEffect s).pfTov = false := rfl

@[simp] theorem resetEffect_started (s : State) : (resetEffect s).started = false := rfl

@[simp] theorem resetEffect_sdi (s : State) : (resetEffect s).sdi = s.sdi := rfl

@[simp] theorem resetEffect_sck (s : State) : (resetEffect s).sck = s.sck := rfl

@[simp] theorem resetEffect_csN (s : State) : (resetEffect s).csN = s.csN := rfl

@[simp] theorem resetEffect_ctx (s : State) : (resetEffect s).ctx = [] := rfl

@[simp] theorem resetEffect_cfg (s : State) : (resetEffect s).cfg = s.cfg := rfl

@[simp] theorem resetEffect_trace (s : State) : (resetEffect s).trace = s.trace := rfl

@[simp] theorem resetEffect_pos (s : State) : (resetEffect s).pos = s.pos := rfl

end Sys2Proof.Machine
end

