-- ==== Sys2Proof/Laws/Ops.lean ====
section
/-! SUPPORT. What each shared operation can do, said once: reads after writes, the enabling conditions, guarded effects, the
step, runs of operations, and the inductions over runs. -/

namespace Sys2Proof.Machine

/-! ### pins, cells, bytes -/

/-- A pin read after a write of a pin. -/
@[simp] theorem pinRead_pinWrite (p q : Pin) (l : Level) (s : State) :
    pinRead p (pinWrite q l s) = if p = q then l else pinRead p s := by
  cases p <;> cases q <;> rfl

/-- A cell read after a write of a cell: the written byte in that cell, the old one in the other. -/
@[simp] theorem memRead_memWrite (c d : IoCell) (v : Byte) (s : State) :
    memRead c (memWrite d v s) = if c = d then v else memRead c s := by
  cases c <;> cases d <;> rfl

/-- A pending flag read after a write of a pending flag. -/
@[simp] theorem pending_writePending (x y : Source) (v : Level) (s : State) :
    pending x (writePending y v s) = if x = y then v else pending x s := by
  cases x <;> cases y <;> rfl

/-- A pending flag read after a request: set if the event occurs in a started block and the source is the one requested. -/
@[simp] theorem pending_request (x y : Source) (b : Bool) (s : State) :
    pending x (request y b s) = (pending x s || (decide (x = y) && b && s.started)) := by
  cases x <;> cases y <;> simp [request, pending]

/-- The high byte as a number: the word divided by 256. -/
theorem highByte_toNat (w : Word) : (highByte w).toNat = w.toNat / 256 := by
  have := w.isLt
  simp only [highByte, BitVec.extractLsb'_toNat, Nat.shiftRight_eq_div_pow]
  omega

/-- The low byte as a number: the word modulo 256. -/
theorem lowByte_toNat (w : Word) : (lowByte w).toNat = w.toNat % 256 := by
  simp [lowByte, BitVec.extractLsb'_toNat]

/-- A word of two bytes as a number. -/
theorem joinBytes_toNat (h l : Byte) : (joinBytes h l).toNat = h.toNat * 256 + l.toNat := by
  have := l.isLt
  simp only [joinBytes, BitVec.toNat_append]
  rw [← Nat.shiftLeft_add_eq_or_of_lt (by omega), Nat.shiftLeft_eq]

/-- `OCR = OCRH * 256 + OCRL` (10_state.md R17). -/
theorem ocr_toNat (s : State) : (ocr s).toNat = s.ocrh.toNat * 256 + s.ocrl.toNat := joinBytes_toNat _ _

@[simp] theorem highByte_joinBytes (h l : Byte) : highByte (joinBytes h l) = h := by
  have := l.isLt
  apply BitVec.eq_of_toNat_eq
  rw [highByte_toNat, joinBytes_toNat]; omega

@[simp] theorem lowByte_joinBytes (h l : Byte) : lowByte (joinBytes h l) = l := by
  have := l.isLt
  apply BitVec.eq_of_toNat_eq
  rw [lowByte_toNat, joinBytes_toNat]; omega

@[simp] theorem joinBytes_highByte_lowByte (w : Word) : joinBytes (highByte w) (lowByte w) = w := by
  apply BitVec.eq_of_toNat_eq
  rw [joinBytes_toNat, highByte_toNat, lowByte_toNat]; omega

/-- The shift of one bit as a number: twice the old value plus the bit, truncated to 16 bits (41_bit_receiver.md R100). -/
theorem shiftIn_toNat (w : Word) (d : Level) : (shiftIn w d).toNat = (2 * w.toNat + d.toNat) % 65536 := by
  have h : shiftIn w d = (w <<< 1) + levelWord d := by
    unfold shiftIn
    rw [BitVec.add_eq_or_of_and_eq_zero]
    ext i hi
    cases d
    · simp [levelWord]
    · simp [levelWord]; omega
  have h1 : (levelWord d).toNat = d.toNat := by cases d <;> rfl
  rw [h, BitVec.toNat_add, h1, BitVec.toNat_shiftLeft, Nat.shiftLeft_eq]
  omega

/-! ### enabling and effects -/

/-- The micro-program counter stands at `m` exactly when `ctx` starts with `m`. -/
theorem atTop_iff (m : Micro) (s : State) : atTop m s = true ↔ ∃ rest, s.ctx = m :: rest := by
  unfold atTop; cases s.ctx <;> simp

/-- No frame of a handler is on `ctx`. -/
theorem hasFrame_eq_false_iff (x : Source) (s : State) : hasFrame x s = false ↔ ∀ m ∈ s.ctx, m.handler ≠ x := by
  simp [hasFrame]

/-- What dispatchable means, field by field (60_exceptions.md R155). -/
theorem dispatchable_iff (x : Source) (s : State) :
    dispatchable x s = true ↔
      s.started = true ∧ s.gie = true ∧ pending x s = true ∧ ∀ m ∈ s.ctx, m.handler ≠ x := by
  simp only [dispatchable, waiting, Bool.and_eq_true, Bool.not_eq_true', hasFrame_eq_false_iff, and_assoc]

/-- A guarded effect answers a next state exactly when the operation is enabled, and then its effect. -/
@[simp] theorem guarded_next (i : Instr) (s t u : State) : guarded i s t = .next u ↔ enabled i s = true ∧ t = u := by
  unfold guarded; split <;> simp_all

/-- A guarded effect is refused exactly when the operation is not enabled. -/
@[simp] theorem guarded_refused (i : Instr) (s t : State) (r : Refusal) :
    guarded i s t = .refused r ↔ enabled i s = false ∧ r = .notEnabled s.pos i := by
  unfold guarded
  split
  · simp_all
  · simp_all [eq_comm (a := r)]

/-- Where an operation is enabled its effect is its outcome. -/
theorem guarded_of_enabled {i : Instr} {s : State} (h : enabled i s = true) (t : State) : guarded i s t = .next t := by
  simp [h]

@[simp] theorem mapNext_eq_next (f : State → State) (o : Host.Outcome State Fault Refusal) (u : State) :
    mapNext f o = .next u ↔ ∃ t, o = .next t ∧ f t = u := by
  cases o <;> simp [mapNext]

@[simp] theorem mapNext_eq_refused (f : State → State) (o : Host.Outcome State Fault Refusal) (r : Refusal) :
    mapNext f o = .refused r ↔ o = .refused r := by
  cases o <;> simp [mapNext]

/-- The step in terms of what is fetched: the one place `step` is unfolded. -/
theorem step_next (s u : State) :
    step s = .next u ↔
      (∃ i t, fetch s = .code i ∧ exec i s = .next t ∧ consume t = u) ∨
      (∃ i, fetch s = .own i ∧ exec i s = .next u) ∨ (fetch s = .idle ∧ s = u) := by
  unfold step; cases fetch s <;> simp

/-- What each outcome of the fetch says of the trace. -/
theorem fetch_code (s : State) (i : Instr) :
    fetch s = .code i ↔ ∃ c rest, s.trace = c :: rest ∧ decode c = some i := by
  unfold fetch
  split
  · rename_i c rest h
    cases h' : decode c <;> simp [h, h']
  · rename_i h
    cases h' : blockChoice s <;> simp [h]

/-! ### runs of operations -/

@[simp] theorem runOps_nil (s : State) : runOps [] s = some s := rfl

/-- A run of operations, one operation at a time. -/
theorem runOps_cons (i : Instr) (is : List Instr) (s u : State) :
    runOps (i :: is) s = some u ↔ ∃ t, exec i s = .next t ∧ runOps is t = some u := by
  simp only [runOps]; split <;> simp_all

/-- A run of two sequences, one after the other. -/
theorem runOps_append (is js : List Instr) (s u : State) :
    runOps (is ++ js) s = some u ↔ ∃ t, runOps is s = some t ∧ runOps js t = some u := by
  induction is generalizing s with
  | nil => simp
  | cons i is ih =>
    simp only [List.cons_append, runOps_cons, ih]
    constructor
    · rintro ⟨v, h, t, h1, h2⟩; exact ⟨t, ⟨v, h, h1⟩, h2⟩
    · rintro ⟨t, ⟨v, h, h1⟩, h2⟩; exact ⟨v, h, t, h1, h2⟩

/-- What every operation keeps, every run of operations keeps. -/
theorem runOps_keeps {P : State → Prop} (h : ∀ i s u, P s → exec i s = .next u → P u) {is : List Instr} {s u : State}
    (hs : P s) (hr : runOps is s = some u) : P u := by
  induction is generalizing s with
  | nil => simp at hr; exact hr ▸ hs
  | cons i is ih =>
    obtain ⟨t, h1, h2⟩ := (runOps_cons i is s u).mp hr
    exact ih (h i s t hs h1) h2

/-- What every step keeps, every run of the machine keeps. -/
theorem run_keeps {P : State → Prop} (h : ∀ s u, P s → step s = .next u → P u) {k : Nat} {s u : State}
    (hs : P s) (hr : Host.Core.run Sys2Proof.core k s = .next u) : P u := by
  induction k generalizing s with
  | zero => cases hr; exact hs
  | succ k ih =>
    simp only [Host.Core.run] at hr
    split at hr
    · rename_i t ht; exact ih (h s t hs ht) hr
    · cases hr
    · cases hr

end Sys2Proof.Machine
end

