-- ==== Sys2Proof/Laws/Exec.lean ====
section
/-! SUPPORT. The effect of each operation where it is enabled, and `exec` in terms of it: the one place `exec` is unfolded. -/

namespace Sys2Proof.Machine

/-- The state an operation leaves where it is enabled. -/
def effect (i : Instr) (s : State) : State :=
  match i with
  | .reset => resetEffect s
  | .start => { s with started := true, gie := true }
  | .sdi l => pinWrite .sdi l s
  | .sck l => pinWrite .sck l (request .sck (risingEdge (pinRead .sck s) l) s)
  | .csn l => pinWrite .csN l (request .cs (chipSelectRequests s.cfg.csSense (pinRead .csN s) l) s)
  | .tov => request .tov true s
  | .irqSck => takeInterrupt .sck s
  | .irqCs => takeInterrupt .cs s
  | .irqTov => takeInterrupt .tov s
  | .rxbit => handlerReturn (receiveBit s)
  | .flatch => handlerReturn (latchFrame s)
  | .ucmp => compareValue s
  | .wsave => setPc .wcli { s with sv := s.gie }
  | .wcli => setPc .whi { s with gie := false }
  | .whi => setPc .wlo (memWrite .ocrh (highByte s.t) s)
  | .wlo => setPc .wrest (memWrite .ocrl (lowByte s.t) s)
  | .wrest => setPc .urec { s with gie := s.sv }
  | .urec => handlerReturn { s with oldValue := s.t }

/-- Every meaning is its effect, guarded by its enabling condition. -/
theorem exec_eq_guarded (i : Instr) (s : State) : exec i s = guarded i s (effect i s) := by cases i <;> rfl

/-- All that an operation can answer as a next state: its effect, where it is enabled. -/
theorem exec_next_iff (i : Instr) (s u : State) : exec i s = .next u ↔ enabled i s = true ∧ effect i s = u := by
  rw [exec_eq_guarded, guarded_next]

/-- The bit is accepted: chip-select is low and fewer than 16 bits are counted. -/
theorem acceptsBit_iff (s : State) : acceptsBit s = true ↔ s.csN = false ∧ s.bits.toNat < 16 := by
  simp [acceptsBit, pinRead, csActive, fullCount, BitVec.lt_def]

/-- The counter is full exactly at 16. -/
theorem bits_eq_fullCount_iff (s : State) : s.bits = fullCount ↔ s.bits.toNat = 16 := by
  simp [fullCount, BitVec.toNat_eq]

/-- No effect writes the parameters, the trace or its position. -/
theorem effect_frame (i : Instr) (s : State) :
    (effect i s).cfg = s.cfg ∧ (effect i s).trace = s.trace ∧ (effect i s).pos = s.pos := by
  cases i <;> simp [effect]

end Sys2Proof.Machine
end

