-- ==== Sys2Proof/Laws/Executions.lean ====
section
/-! SUPPORT. What holds along every execution (60_exceptions.md R161): its prefixes are finite executions, what every operation
keeps it keeps, a running handler always has a step, and in a fair execution takes it unless a RESET removes it. -/

namespace Sys2Proof.Machine

/-- The first `n` operations of an infinite execution are a finite execution, and leave its `n`-th state. -/
theorem InfiniteExecution.runOps_take {ops : Nat → Instr} {sts : Nat → State} (h : InfiniteExecution ops sts) (n : Nat) :
    runOps ((List.range n).map ops) (sts 0) = some (sts n) := by
  induction n with
  | zero => rfl
  | succ n ih =>
    rw [List.range_succ, List.map_append, runOps_append]
    exact ⟨sts n, ih, (runOps_cons _ _ _ _).mpr ⟨_, h n, rfl⟩⟩

/-- What every operation keeps holds in every state of an infinite execution. -/
theorem InfiniteExecution.keeps {P : State → Prop} (hP : ∀ i s u, P s → exec i s = .next u → P u)
    {ops : Nat → Instr} {sts : Nat → State} (h : InfiniteExecution ops sts) (h0 : P (sts 0)) (n : Nat) : P (sts n) :=
  runOps_keeps hP h0 (h.runOps_take n)

/-- Whenever `ctx` is not empty the block has an enabled step (60_exceptions.md R161). -/
theorem blockEnabled_of_running {s : State} (h : s.ctx ≠ []) : BlockEnabled s := by
  obtain ⟨m, rest, hc⟩ := List.exists_cons_of_ne_nil h
  have ht : atTop m s = true := (atTop_iff m s).mpr ⟨rest, hc⟩
  refine ⟨m.instr, ?_, ?_⟩
  · cases m <;> rfl
  · cases m <;> exact ht

/-- No operation of the environment but RESET touches `ctx` (40_environment_events.md R84, 70_reset_and_hazards.md R191). -/
theorem env_keeps_ctx {i : Instr} {s u : State} (ha : i.agent = .env) (hr : i ≠ .reset) (h : exec i s = .next u) :
    u.ctx = s.ctx := by
  obtain ⟨-, rfl⟩ := (exec_next_iff i s u).mp h
  cases i <;> first | exact absurd rfl hr | exact absurd ha (by decide) | simp [effect]

/-- In a fair execution a handler that is running takes a step, unless a RESET comes. -/
theorem FairExecution.running_handler_steps {ops : Nat → Instr} {sts : Nat → State} (h : FairExecution ops sts) {n : Nat}
    (hc : (sts n).ctx ≠ []) (hr : ∀ m, n ≤ m → ops m ≠ .reset) : ∃ m, n ≤ m ∧ (ops m).agent = .blk := by
  by_contra hno
  have henv : ∀ m, n ≤ m → (ops m).agent = .env := fun m hm => by
    cases ha : (ops m).agent with
    | env => rfl
    | blk => exact absurd ⟨m, hm, ha⟩ hno
  have hctx : ∀ k, (sts (n + k)).ctx = (sts n).ctx := fun k => by
    induction k with
    | zero => rfl
    | succ k ih =>
      exact (env_keeps_ctx (henv _ (Nat.le_add_right n k)) (hr _ (Nat.le_add_right n k)) (h.1 (n + k))).trans ih
  refine hno (h.2 n fun m hm => blockEnabled_of_running ?_)
  obtain ⟨k, rfl⟩ := Nat.exists_eq_add_of_le hm
  rwa [hctx k]

end Sys2Proof.Machine
end

