-- ==== Sys2Proof/Laws/PerInstr.lean ====
section
/-! SUPPORT. Facts of every operation, one lemma per constructor: its code is not reserved, and bit 7 of the code tells the
block's operations from the environment's (30_encoding.md R64, R67). -/

namespace Sys2Proof.Laws

/-- The code of an operation lies in no reserved range, and its bit 7 is 1 exactly for an operation of the block
(30_encoding.md R64: "Bit 7 = 0 marks an environment operation"; R66, column Agent). -/
def CodeClass.Statement (i : Instr) : Prop :=
  reservedCode (encode i) = false ∧ (i.agent = .blk ↔ (encode i).getLsbD 7 = true)

theorem CodeClass.reset : CodeClass.Statement .reset := by unfold Statement; decide
theorem CodeClass.start : CodeClass.Statement .start := by unfold Statement; decide
theorem CodeClass.sdi (l : Level) : CodeClass.Statement (.sdi l) := by unfold Statement; cases l <;> decide
theorem CodeClass.sck (l : Level) : CodeClass.Statement (.sck l) := by unfold Statement; cases l <;> decide
theorem CodeClass.csn (l : Level) : CodeClass.Statement (.csn l) := by unfold Statement; cases l <;> decide
theorem CodeClass.tov : CodeClass.Statement .tov := by unfold Statement; decide
theorem CodeClass.irqSck : CodeClass.Statement .irqSck := by unfold Statement; decide
theorem CodeClass.irqCs : CodeClass.Statement .irqCs := by unfold Statement; decide
theorem CodeClass.irqTov : CodeClass.Statement .irqTov := by unfold Statement; decide
theorem CodeClass.rxbit : CodeClass.Statement .rxbit := by unfold Statement; decide
theorem CodeClass.flatch : CodeClass.Statement .flatch := by unfold Statement; decide
theorem CodeClass.ucmp : CodeClass.Statement .ucmp := by unfold Statement; decide
theorem CodeClass.wsave : CodeClass.Statement .wsave := by unfold Statement; decide
theorem CodeClass.wcli : CodeClass.Statement .wcli := by unfold Statement; decide
theorem CodeClass.whi : CodeClass.Statement .whi := by unfold Statement; decide
theorem CodeClass.wlo : CodeClass.Statement .wlo := by unfold Statement; decide
theorem CodeClass.wrest : CodeClass.Statement .wrest := by unfold Statement; decide
theorem CodeClass.urec : CodeClass.Statement .urec := by unfold Statement; decide

end Sys2Proof.Laws
end

