-- ==== Sys2Proof/Tests/Slice0.lean ====
section
/-! SUPPORT. The model's own tests: what well-formedness refuses, every code written out from the map of 30_encoding.md R66,
single steps with the results of the tables of 95_test_vectors.md, and one witness per statement that has hypotheses. -/

namespace Sys2Proof.Tests

open Sys2Proof.Machine

/-- The booted state B0 of 95_test_vectors.md. -/
def live : State := { State.reset with started := true, gie := true }

/-- B0 with a handler running at a micro-operation. -/
def running (m : Micro) : State := { live with ctx := [m], gie := false }

/-! ### Well-formedness: each check refuses an ill-formed term -/

/-- First and last code of each reserved range (30_encoding.md R67). -/
theorem test_wf_reserved_low : codesWf [0x02] = false ∧ codesWf [0x0F] = false ∧ codesWf [0x12] = false ∧
    codesWf [0x1F] = false ∧ codesWf [0x22] = false ∧ codesWf [0x2F] = false ∧ codesWf [0x32] = false := by decide
theorem test_wf_reserved_high : codesWf [0x3F] = false ∧ codesWf [0x41] = false ∧ codesWf [0x7F] = false ∧
    codesWf [0x83] = false ∧ codesWf [0x84] = false ∧ codesWf [0x8F] = false ∧ codesWf [0x99] = false ∧
    codesWf [0x9F] = false ∧ codesWf [0xA0] = false ∧ codesWf [0xFF] = false := by decide
/-- One reserved code makes a trace ill-formed; the codes of program P5 are well formed. -/
theorem test_wf_trace : codesWf [0x11, 0x21, 0x31, 0x80, 0x90, 0x81, 0x91] = true ∧ codesWf [0x11, 0x83, 0x31] = false := by
  decide
/-- `clkn` needs `1 <= n <= 16` and an `n`-bit value (30_encoding.md R70). -/
theorem test_wf_clkn : (Pseudo.clkn 0 0).wf = false ∧ (Pseudo.clkn 17 0).wf = false ∧ (Pseudo.clkn 3 8).wf = false ∧
    (Pseudo.clkn 3 7).wf = true ∧ (Pseudo.clkn 16 0xFFFF).wf = true ∧ (Pseudo.clkn 1 1).wf = true := by decide
/-- Two frames of one handler are ill-formed, frames of three handlers are not (10_state.md R24). -/
theorem test_wf_ctx : ctxWf [.wsave, .urec] = false ∧ ctxWf [.rxbit, .flatch, .rxbit] = false ∧
    ctxWf [.flatch, .rxbit, .urec] = true := by decide

/-! ### Decoding and encoding: the words of 30_encoding.md R66 -/

theorem test_decode_reset : decode 0b00000000#8 = some .reset ∧ encode .reset = 0b00000000#8 := by decide
theorem test_decode_start : decode 0b00000001#8 = some .start ∧ encode .start = 0b00000001#8 := by decide
theorem test_decode_sdi : decode 0b00010000#8 = some (.sdi false) ∧ decode 0b00010001#8 = some (.sdi true) ∧
    encode (.sdi false) = 0b00010000#8 ∧ encode (.sdi true) = 0b00010001#8 := by decide
theorem test_decode_sck : decode 0b00100000#8 = some (.sck false) ∧ decode 0b00100001#8 = some (.sck true) ∧
    encode (.sck false) = 0b00100000#8 ∧ encode (.sck true) = 0b00100001#8 := by decide
theorem test_decode_csn : decode 0b00110000#8 = some (.csn false) ∧ decode 0b00110001#8 = some (.csn true) ∧
    encode (.csn false) = 0b00110000#8 ∧ encode (.csn true) = 0b00110001#8 := by decide
theorem test_decode_tov : decode 0b01000000#8 = some .tov ∧ encode .tov = 0b01000000#8 := by decide
theorem test_decode_irqSck : decode 0b10000000#8 = some .irqSck ∧ encode .irqSck = 0b10000000#8 := by decide
theorem test_decode_irqCs : decode 0b10000001#8 = some .irqCs ∧ encode .irqCs = 0b10000001#8 := by decide
theorem test_decode_irqTov : decode 0b10000010#8 = some .irqTov ∧ encode .irqTov = 0b10000010#8 := by decide
theorem test_decode_rxbit : decode 0b10010000#8 = some .rxbit ∧ encode .rxbit = 0b10010000#8 := by decide
theorem test_decode_flatch : decode 0b10010001#8 = some .flatch ∧ encode .flatch = 0b10010001#8 := by decide
theorem test_decode_ucmp : decode 0b10010010#8 = some .ucmp ∧ encode .ucmp = 0b10010010#8 := by decide
theorem test_decode_wsave : decode 0b10010011#8 = some .wsave ∧ encode .wsave = 0b10010011#8 := by decide
theorem test_decode_wcli : decode 0b10010100#8 = some .wcli ∧ encode .wcli = 0b10010100#8 := by decide
theorem test_decode_whi : decode 0b10010101#8 = some .whi ∧ encode .whi = 0b10010101#8 := by decide
theorem test_decode_wlo : decode 0b10010110#8 = some .wlo ∧ encode .wlo = 0b10010110#8 := by decide
theorem test_decode_wrest : decode 0b10010111#8 = some .wrest ∧ encode .wrest = 0b10010111#8 := by decide
theorem test_decode_urec : decode 0b10011000#8 = some .urec ∧ encode .urec = 0b10011000#8 := by decide

/-- A table word is read from its low eight bits (log 13); a reserved one is not read. -/
theorem test_table_word : decodeTableWord 8 0x95 = some .whi ∧ decodeTableWord 8 0x83 = none := by decide

/-- The text of vector V16's trace (30_encoding.md R69), with a comment and a line end. -/
theorem test_text : parseTrace "reset; csn 0; sdi 1 # data\nsck 1;tov".toList =
    some [.reset, .csn false, .sdi true, .sck true, .tov] := by decide
/-- A word that is no mnemonic is refused. -/
theorem test_text_refused : parseTrace "sck 2".toList = none := by decide

/-! ### Single steps: the tables of 95_test_vectors.md -/

/-- I14: RESET inside the critical section clears everything but the pins. -/
theorem test_reset :
    exec .reset { running .wlo with value := 0x2000, oldValue := 0x12FF, t := 0x2000, ocrh := 0x20, ocrl := 0xFF } =
      .next State.reset := rfl
/-- I12, I13. -/
theorem test_start : exec .start State.reset = .next live ∧ exec .start live = .refused (.notEnabled 0 .start) := ⟨rfl, rfl⟩
/-- E15. -/
theorem test_sdi : exec (.sdi true) live = .next { live with sdi := true } := rfl
/-- E1: a rising edge. -/
theorem test_sck_rising : exec (.sck true) live = .next { live with sck := true, pfSck := true } := rfl
/-- E2: a falling edge requests nothing. -/
theorem test_sck_falling : exec (.sck false) { live with sck := true } = .next live := rfl
/-- E7: the release edge. -/
theorem test_csn_release : exec (.csn true) { live with csN := false } = .next { live with pfCs := true } := rfl
/-- E8, E9: the asserting edge under both settings of `CS_SENSE`. -/
theorem test_csn_assert : exec (.csn false) live = .next { live with csN := false } ∧
    exec (.csn false) { live with cfg := { live.cfg with csSense := .any } } =
      .next { live with csN := false, pfCs := true, cfg := { live.cfg with csSense := .any } } := ⟨rfl, rfl⟩
/-- E12, E14. -/
theorem test_tov : exec .tov live = .next { live with pfTov := true } ∧ exec .tov State.reset = .next State.reset := ⟨rfl, rfl⟩
/-- I1: dispatch clears the flag and the enable. -/
theorem test_irqSck : exec .irqSck { live with pfSck := true } = .next (running .rxbit) := rfl
/-- I8: under nesting a second handler is stacked, top first here. -/
theorem test_irqSck_nested :
    exec .irqSck { live with pfSck := true, ctx := [.urec], cfg := { live.cfg with nesting := true } } =
      .next { live with ctx := [.rxbit, .urec], cfg := { live.cfg with nesting := true } } := rfl
/-- I3. -/
theorem test_irqCs : exec .irqCs { live with pfCs := true } = .next (running .flatch) := rfl
/-- I9, I10: an earlier pending source excludes a later one under a permutation, not under `ANY`. -/
theorem test_irqCs_prio :
    exec .irqCs { live with pfSck := true, pfCs := true, cfg := { live.cfg with prio := .sckCsTov } } =
      .refused (.notEnabled 0 .irqCs) ∧
    exec .irqCs { live with pfSck := true, pfCs := true } = .next { running .flatch with pfSck := true } := ⟨rfl, rfl⟩
/-- I4. -/
theorem test_irqTov : exec .irqTov { live with pfTov := true } = .next (running .ucmp) := rfl
/-- I7: no re-entrance. -/
theorem test_irqTov_reentry :
    exec .irqTov { live with pfTov := true, ctx := [.urec], cfg := { live.cfg with nesting := true } } =
      .refused (.notEnabled 0 .irqTov) := rfl
/-- X5: the sixteenth bit. -/
theorem test_rxbit : exec .rxbit { running .rxbit with csN := false, sdi := true, receive := 0x5670, bits := 15 } =
    .next { live with csN := false, sdi := true, receive := 0xACE1, bits := 16 } := rfl
/-- X8, X9: a full frame and a released chip-select take no bit. -/
theorem test_rxbit_ignored :
    exec .rxbit { running .rxbit with csN := false, receive := 0xFFFF, bits := 16 } =
      .next { live with csN := false, receive := 0xFFFF, bits := 16 } ∧
    exec .rxbit { running .rxbit with sdi := true, receive := 5, bits := 3 } =
      .next { live with sdi := true, receive := 5, bits := 3 } := ⟨rfl, rfl⟩
/-- F1. -/
theorem test_flatch : exec .flatch { running .flatch with receive := 0xACE1, bits := 16 } =
    .next { live with value := 0xACE1 } := rfl
/-- F7, F8: both variants of a discard. -/
theorem test_flatch_discard :
    exec .flatch { running .flatch with receive := 0x5670, bits := 15, value := 0x1234 } =
      .next { live with receive := 0x5670, bits := 15, value := 0x1234 } ∧
    exec .flatch { running .flatch with
      receive := 0x5670, bits := 15, value := 0x1234, cfg := { live.cfg with resetOnDiscard := true } } =
      .next { live with value := 0x1234, cfg := { live.cfg with resetOnDiscard := true } } := ⟨rfl, rfl⟩
/-- U1. -/
theorem test_ucmp : exec .ucmp { running .ucmp with value := 0x2000, oldValue := 0x12FF } =
    .next { running .wsave with value := 0x2000, oldValue := 0x12FF, t := 0x2000 } := rfl
/-- The equal case of section 2.4. -/
theorem test_ucmp_equal : exec .ucmp { running .ucmp with value := 0x2000, oldValue := 0x2000 } =
    .next { live with value := 0x2000, oldValue := 0x2000, t := 0x2000 } := rfl
/-- U2, both columns. -/
theorem test_wsave : exec .wsave { running .wsave with sv := true } = .next (running .wcli) ∧
    exec .wsave { running .wsave with gie := true } = .next { running .wcli with gie := true, sv := true } := ⟨rfl, rfl⟩
/-- U3. -/
theorem test_wcli : exec .wcli { running .wcli with gie := true, sv := true } = .next { running .whi with sv := true } := rfl
/-- U4, W5. -/
theorem test_whi : exec .whi { running .whi with t := 0x2000, ocrh := 0x12, ocrl := 0xFF } =
    .next { running .wlo with t := 0x2000, ocrh := 0x20, ocrl := 0xFF } := rfl
theorem test_whi_above_both : ocr { live with ocrh := 0x01, ocrl := 0xFF } = 0x01FF ∧
    exec .whi { running .whi with t := 0x0100, ocrl := 0xFF } =
      .next { running .wlo with t := 0x0100, ocrh := 0x01, ocrl := 0xFF } := ⟨by decide, rfl⟩
/-- U5, W6: all 16 bits are written, above `TOP` too. -/
theorem test_wlo : exec .wlo { running .wlo with t := 0x2000, ocrh := 0x20, ocrl := 0xFF } =
    .next { running .wrest with t := 0x2000, ocrh := 0x20 } := rfl
theorem test_wlo_above_top : exec .wlo { running .wlo with t := 0xFFFF, ocrh := 0xFF, ocrl := 0xFF } =
    .next { running .wrest with t := 0xFFFF, ocrh := 0xFF, ocrl := 0xFF } := rfl
/-- U6, both columns. -/
theorem test_wrest : exec .wrest (running .wrest) = .next (running .urec) ∧
    exec .wrest { running .wrest with sv := true } = .next { running .urec with sv := true, gie := true } := ⟨rfl, rfl⟩
/-- U7. -/
theorem test_urec : exec .urec { running .urec with t := 0x2000, oldValue := 0x12FF } =
    .next { live with t := 0x2000, oldValue := 0x2000 } := rfl
/-- A micro-operation that is not at the top is refused (30_encoding.md R68). -/
theorem test_micro_refused : exec .wlo (running .whi) = .refused (.notEnabled 0 .wlo) := rfl

/-- A step consumes one code; a reserved code is refused with its position (30_encoding.md R67). -/
theorem test_step : step { live with trace := [0x40, 0x82] } = .next { live with pfTov := true, trace := [0x82], pos := 1 } ∧
    step { live with trace := [0x83], pos := 7 } = .refused (.reservedCode 7 0x83) := ⟨rfl, rfl⟩
/-- With no trace: the block's own step, and a quiescent block stays (60_exceptions.md R162, R163; log 3). -/
theorem test_step_own : step { live with pfTov := true } = .next (running .ucmp) ∧ step live = .next live := ⟨rfl, rfl⟩
/-- A placed operation runs at once, from the state after reset too (log 10). -/
theorem test_place : step (State.withFetchWord State.reset 8 0x96) =
    .next { State.reset with ctx := [.wrest], pos := 1 } := rfl

/-! ### Witnesses: concrete states and operands that meet the hypotheses of each statement -/

/-- A started state with interrupts enabled, no handler running and the shadow in place meets the step's invariant. -/
theorem inv_of_quiet (s : State) (hs : s.started = true) (hg : s.gie = true) (hc : s.ctx = []) (hb : s.bits.toNat ≤ 16)
    (hr : s.receive.toNat < 2 ^ s.bits.toNat) (ho : s.oldValue = ocr s) : Inv s := by
  constructor <;> simp_all

theorem quiescent_of_quiet (s : State) (hc : s.ctx = []) (h1 : s.pfSck = false) (h2 : s.pfCs = false)
    (h3 : s.pfTov = false) : Quiescent s :=
  ⟨hc, fun x => by cases x <;> simp [dispatchable, waiting, pending, h1, h2, h3]⟩

theorem live_inv : Inv live := inv_of_quiet live rfl rfl rfl (by decide) (by decide) (by decide)
theorem live_quiescent : Quiescent live := quiescent_of_quiet live rfl rfl rfl rfl

theorem witness_EncodedOperationDecodesToItself :
    (Instr.csn true).wf = true ∧ decode 0x31 = some (.csn true) := by decide
theorem witness_ReservedCodesAreRefusedWithTheirPosition :
    ({ live with trace := [0x9F, 0x40] } : State).trace = 0x9F :: [0x40] ∧
      ReservedBySpec (0x9F#8).toNat ∧ ReservedBySpec (0x02#8).toNat ∧ ReservedBySpec (0x83#8).toNat ∧
      ReservedBySpec (0xFF#8).toNat ∧ ¬ ReservedBySpec (0x98#8).toNat ∧ ¬ ReservedBySpec (0x82#8).toNat := by
  refine ⟨rfl, ?_, ?_, ?_, ?_, ?_, ?_⟩ <;> unfold ReservedBySpec <;> decide
theorem witness_WholeTraceDecodesOrNamesTheFirstReservedPosition : ReservedBySpec (0x0F#8).toNat ∧
    decodeTrace [0x00, 0x0F, 0x01] = .reservedAt 1 0x0F := by unfold ReservedBySpec; decide
theorem witness_TextOfATraceReadsBack :
    (∀ p ∈ [(Instr.tov, '\n'), (Instr.csn true, ';')], p.2 = '\n' ∨ p.2 = ';') ∧
      (∀ p ∈ [(Instr.urec, ['o', 'k', ';', '#'])], '\n' ∉ p.2) := by decide
theorem witness_StepRunsTheDecodedOperation :
    ({ live with trace := [0x11] } : State).trace = 0x11 :: [] ∧ decode 0x11 = some (.sdi true) ∧
      exec (.sdi true) { live with trace := [0x11] } = .next { live with trace := [0x11], sdi := true } ∧
      decode 0x90 = some .rxbit ∧ exec .rxbit { live with trace := [0x90] } = .refused (.notEnabled 0 .rxbit) :=
  ⟨rfl, by decide, rfl, by decide, rfl⟩
/-- Each clause: SCK first of two, CS, TOV, a micro-operation, a quiescent state. -/
theorem witness_StepOnAnEmptyTraceFollowsSettle :
    live.trace = [] ∧ live.cfg.prio = .any ∧ dispatchable .sck { live with pfSck := true, pfCs := true } = true ∧
      dispatchable .sck { live with pfCs := true } = false ∧ dispatchable .cs { live with pfCs := true } = true ∧
      dispatchable .cs { live with pfTov := true } = false ∧ dispatchable .tov { live with pfTov := true } = true ∧
      (∀ x : Source, dispatchable x (running .whi) = false) ∧ (running .whi).ctx = .whi :: [] ∧ Quiescent live :=
  ⟨rfl, rfl, rfl, rfl, rfl, rfl, rfl, fun x => by cases x <;> rfl, rfl, live_quiescent⟩
theorem witness_StepStopsExactlyOnAnInvalidTrace :
    ({ live with trace := [0x01] } : State).trace = 0x01 :: [] ∧ decode 0x01 = some .start ∧ ¬ EnabledBySpec .start live :=
  ⟨rfl, by decide, by simp [EnabledBySpec, live]⟩
theorem witness_OperationRunsExactlyWhenEnabled :
    EnabledBySpec .irqTov { live with pfTov := true, pfSck := true, cfg := { live.cfg with prio := .csTovSck } } ∧
      ¬ EnabledBySpec .irqTov live := by
  refine ⟨⟨rfl, rfl, ⟨rfl, by simp [live, State.reset, State.powerOn]⟩, ?_⟩, ?_⟩
  · intro y h
    cases y <;> simp [ComesBefore, PendingAndNotRunning, prioOrder, pending, live, State.reset, State.powerOn] at h ⊢
  · rintro ⟨_, _, ⟨h, _⟩, _⟩; exact absurd h (by decide)
theorem witness_ValidTraceIsARunOfTheMachine : validTrace [0x01, 0x40, 0x82, 0x92] State.reset = true ∧
    validTrace [0x01, 0x01] State.reset = false ∧ validTrace [0x83] State.reset = false := by decide
theorem witness_StartMakesTheBlockLiveOnce : State.reset.started = false ∧ live.started = true := by decide
theorem witness_EventsBeforeStartSetNoFlag : State.reset.started = false := by decide
theorem witness_SimultaneousEventsCommute : eventLine (.sck true) = some 1 ∧ eventLine (.csn true) = some 2 := by decide
/-- One state per source. -/
theorem witness_DispatchEntersTheHandlerOfTheSource :
    IrqEnabledBySpec .sck { live with pfSck := true } ∧ IrqEnabledBySpec .cs { live with pfCs := true, pfSck := true } ∧
      IrqEnabledBySpec .tov { live with pfTov := true, ctx := [.flatch], cfg := { live.cfg with nesting := true } } := by
  refine ⟨⟨rfl, rfl, ⟨rfl, ?_⟩, fun y h => absurd rfl h.1⟩, ⟨rfl, rfl, ⟨rfl, ?_⟩, fun y h => absurd rfl h.1⟩,
    ⟨rfl, rfl, ⟨rfl, ?_⟩, fun y h => absurd rfl h.1⟩⟩ <;> decide
theorem witness_HandlerEndPopsTheFrameAndEnables : (running .urec).ctx = .urec :: [] ∧
    (running .ucmp).ctx = .ucmp :: [] ∧ (running .ucmp).value = (running .ucmp).oldValue := by decide
theorem witness_PriorityArbitratesAmongWaitingSources :
    ({ live with cfg := { live.cfg with prio := .csTovSck } } : State).cfg.prio ≠ .any ∧
      exec .irqTov { live with pfTov := true, pfSck := true, cfg := { live.cfg with prio := .csTovSck } } =
        .next { running .ucmp with pfSck := true, cfg := { live.cfg with prio := .csTovSck } } ∧
      live.cfg.prio = .any ∧ dispatchable .cs { live with pfCs := true } = true := ⟨by decide, rfl, rfl, rfl⟩
theorem witness_RunningHandlerIsNotReentered :
    (∃ m ∈ (running .wrest).ctx, m.handler = .tov) ∧ pending .tov { running .wrest with pfTov := true } = true ∧
      exec .wrest { running .wrest with pfTov := true } = .next { running .urec with pfTov := true } :=
  ⟨⟨.wrest, by decide, rfl⟩, rfl, rfl⟩
theorem witness_PendingFlagsAreClearedByDispatchAndResetOnly :
    exec Source.tov.instr { live with pfTov := true } = .next (running .ucmp) ∧
      exec .reset { live with pfTov := true } = .next State.reset := ⟨rfl, rfl⟩
theorem witness_QuiescentMeansNoBlockOperationRuns : Inv live ∧ Quiescent live := ⟨live_inv, live_quiescent⟩
theorem reset_inv : Inv State.reset := by
  constructor <;> simp [State.reset, State.powerOn, RegistersAtReset, ocr, joinBytes]
  intro x; cases x <;> rfl
theorem witness_NoBlockOperationRunsBeforeStart :
    Inv State.reset ∧ State.reset.started = false ∧ Instr.irqTov.agent = .blk := ⟨reset_inv, rfl, rfl⟩
/-- Both clauses at the boundary of 16 bits. -/
theorem witness_RxbitShiftsInOneBitWhileSelectedAndNotFull :
    (running .rxbit).ctx = .rxbit :: [] ∧ ({ running .rxbit with csN := false, bits := 15 } : State).bits.toNat < 16 ∧
      16 ≤ ({ running .rxbit with csN := false, bits := 16 } : State).bits.toNat ∧ (running .rxbit).csN = true := by decide
/-- The three clauses at the boundary of 16 bits. -/
theorem witness_FlatchLatchesACompleteFrameOrDiscards :
    (running .flatch).ctx = .flatch :: [] ∧ ({ running .flatch with bits := 16 } : State).bits.toNat = 16 ∧
      ({ running .flatch with bits := 15 } : State).bits.toNat ≠ 16 ∧
      ({ running .flatch with bits := 17 } : State).bits.toNat ≠ 16 ∧ (running .flatch).cfg.resetOnDiscard = false ∧
      ({ running .flatch with cfg := { live.cfg with resetOnDiscard := true } } : State).cfg.resetOnDiscard = true := by
  decide
theorem witness_SecondReleaseDoesNotLatchAgain :
    ({ running .flatch with receive := 0xACE1, bits := 16 } : State).ctx = .flatch :: [] ∧
      ({ running .flatch with receive := 0xACE1, bits := 16 } : State).bits.toNat = 16 := by decide
theorem witness_AccumulatorStaysBelowTwoToTheCount :
    ({ running .rxbit with receive := 0x7FFF, bits := 15, csN := false } : State).bits.toNat ≤ 16 ∧
      ({ running .rxbit with receive := 0x7FFF, bits := 15, csN := false } : State).receive.toNat < 2 ^ 15 ∧
      step { running .rxbit with receive := 0x7FFF, bits := 15, csN := false } =
        .next { live with receive := 0xFFFE, bits := 16, csN := false } := ⟨by decide, by decide, rfl⟩
theorem witness_FirstSixteenSampledLevelsAreTheFrame :
    ({ live with csN := false } : State).bits.toNat = 0 ∧ ({ live with csN := false } : State).receive.toNat = 0 ∧
      (∀ i ∈ [Instr.sdi true, .sck true, .irqSck, .rxbit], i ≠ .flatch ∧ i ≠ .reset ∧ i ≠ .csn true) ∧
      runOps [.sdi true, .sck true, .irqSck, .rxbit] { live with csN := false } =
        some { live with csN := false, sdi := true, sck := true, receive := 1, bits := 1 } := by decide
theorem witness_UcmpSnapshotsAndCompares : (running .ucmp).ctx = .ucmp :: [] ∧ (running .ucmp).value = (running .ucmp).oldValue ∧
    ({ running .ucmp with value := 1 } : State).value ≠ ({ running .ucmp with value := 1 } : State).oldValue := by decide
/-- A state of the invariant at WSAVE; and a Bit Receiver run between WSAVE and WCLI. -/
theorem witness_WsaveSavesTheEnable : Inv (running .wsave) ∧
    (∀ i ∈ [Instr.sck true, .irqSck, .rxbit], eventLine i ≠ none ∨ i ∈ [Instr.irqSck, .irqCs, .rxbit, .flatch]) ∧
    runOps [.sck true, .irqSck, .rxbit] { running .wcli with gie := true, sv := true } =
      some { running .wcli with gie := true, sv := true, sck := true } := by
  refine ⟨?_, by decide, by decide⟩
  constructor <;> simp [running, live, State.reset, State.powerOn, Config.default, Critical, ocr, joinBytes]
/-- A run inside the critical section: an overflow comes in its first part and waits through its second. -/
theorem witness_WcliDisablesInterrupts : (running .wcli).ctx = .wcli :: [] ∧ (running .wcli).started = true ∧
    (∀ i ∈ [Instr.tov, .whi] ++ [.wlo], i ≠ .wrest ∧ i ≠ .reset) ∧
    runOps [.tov, .whi] (running .whi) = some { running .wlo with pfTov := true } ∧
    runOps [.wlo] { running .wlo with pfTov := true } = some { running .wrest with pfTov := true } ∧
    pending .tov { running .wlo with pfTov := true } = true := by decide
/-- For the statements whose one hypothesis is the micro-operation at the top of `ctx`. -/
theorem witness_TopOfTheWriter : (running .urec).ctx = .urec :: [] ∧ (running .wsave).ctx = .wsave :: [] ∧
    (running .wcli).ctx = .wcli :: [] ∧ (running .whi).ctx = .whi :: [] ∧ (running .wlo).ctx = .wlo :: [] ∧
    (running .wrest).ctx = .wrest :: [] := by decide
theorem witness_WloWritesTheLowHalf : ({ running .wlo with t := 0x20FF, ocrh := 0x20 } : State).ctx = .wlo :: [] ∧
    ({ running .wlo with t := 0x20FF, ocrh := 0x20 } : State).ocrh.toNat =
      ({ running .wlo with t := 0x20FF, ocrh := 0x20 } : State).t.toNat / 256 := by decide
theorem witness_WriterAppliesTheWordAndRestoresTheEnable :
    ({ running .wsave with gie := true, t := 0xACE1 } : State).ctx = .wsave :: [] ∧ OnlyEvents [.sck true, .tov] ∧
      OnlyEvents [] := by
  refine ⟨rfl, ?_, ?_⟩ <;> unfold OnlyEvents <;> decide
theorem witness_OutputUpdaterRunsOneOrSevenMicroOperations : (running .ucmp).ctx = .ucmp :: [] ∧
    (running .ucmp).value = (running .ucmp).oldValue ∧
    ({ running .ucmp with value := 0x2000 } : State).value ≠ ({ running .ucmp with value := 0x2000 } : State).oldValue := by
  decide
/-- An operation that runs and changes a field of each writer's. -/
theorem witness_FieldsChangeByTheirWritersOnly :
    exec .whi { running .whi with t := 0x2000 } = .next { running .wlo with t := 0x2000, ocrh := 0x20 } ∧
      exec .tov live = .next { live with pfTov := true } ∧
      exec .irqTov { live with pfTov := true } = .next (running .ucmp) := ⟨rfl, rfl, rfl⟩
theorem witness_ParametersNeverChange :
    Host.Core.run Sys2Proof.core 2 { live with trace := [0x40] } = .next { running .ucmp with pos := 1 } := rfl
theorem witness_EveryStepKeepsTheStepInvariant : Inv { live with pfTov := true } ∧
    step { live with pfTov := true } = .next (running .ucmp) :=
  ⟨inv_of_quiet _ rfl rfl rfl (by decide) (by decide) (by decide), rfl⟩
theorem witness_StepInvariantGivesTheSpecInvariants : Inv live := live_inv
theorem witness_SpecInvariantsHoldOnEveryRun :
    Host.Core.run Sys2Proof.core 1 { State.powerOn Config.default with trace := [0x01] } = .next { live with pos := 1 } := rfl

/-- From power-on: a frame of 16 ones received and latched, and the writer entered (30_encoding.md R70, expanded). -/
def toTheWriter : List Instr :=
  [.start, .csn false, .sdi true] ++ (List.replicate 16 [Instr.sck true, .irqSck, .rxbit, .sck false]).flatten ++
    [.csn true, .irqCs, .flatch, .tov, .irqTov, .ucmp, .wsave, .wcli]
theorem witness_ContextHoldsOneFramePerHandler : Config.default.nesting = false ∧
    runOps [.start, .tov, .irqTov] (State.powerOn Config.default) = some (running .ucmp) := by decide
/-- The latched clause, and the clause about the critical section. -/
theorem witness_ValueIsTheResetValueOrALatchedFrame : runOps toTheWriter (State.powerOn Config.default) =
    some { running .whi with value := 0xFFFF, t := 0xFFFF, sdi := true } := by decide +kernel
theorem witness_InterruptsSeeOnlyWholeWordsInTheCompareRegister :
    (∃ m ∈ ({ running .whi with value := 0xFFFF, t := 0xFFFF, sdi := true } : State).ctx, Critical m) ∧
      runOps [.start, .tov] (State.powerOn Config.default) = some { live with pfTov := true } ∧
      exec Source.tov.instr { live with pfTov := true } = .next (running .ucmp) :=
  ⟨⟨.whi, by decide, .inl rfl⟩, by decide, rfl⟩
/-- The same run goes on to a dispatch at which `OCR` is a word it has written. -/
theorem witness_InterruptsSeeAWrittenWord :
    runOps [.whi, .wlo, .wrest, .urec, .tov] { running .whi with value := 0xFFFF, t := 0xFFFF, sdi := true } =
      some { live with value := 0xFFFF, oldValue := 0xFFFF, t := 0xFFFF, ocrh := 0xFF, ocrl := 0xFF, sdi := true, pfTov := true } ∧
    exec Source.tov.instr
        { live with value := 0xFFFF, oldValue := 0xFFFF, t := 0xFFFF, ocrh := 0xFF, ocrl := 0xFF, sdi := true, pfTov := true } =
      .next { running .ucmp with
        value := 0xFFFF, oldValue := 0xFFFF, t := 0xFFFF, ocrh := 0xFF, ocrl := 0xFF, sdi := true } := ⟨rfl, rfl⟩
/-- The same handler running with and without nesting. -/
theorem witness_NestingSimulatesNoNesting :
    Inv (running .rxbit) ∧ Inv { running .rxbit with gie := true, cfg := { live.cfg with nesting := true } } ∧
      (running .rxbit).cfg.nesting = false ∧
      SameButEnables (running .rxbit) { running .rxbit with gie := true, cfg := { live.cfg with nesting := true } } ∧
      exec .rxbit (running .rxbit) = .next live := by
  refine ⟨?_, ?_, rfl, rfl, rfl⟩ <;>
    constructor <;> simp [running, live, State.reset, State.powerOn, Config.default, Critical, ocr, joinBytes]
/-- The worst case takes exactly twelve operations. -/
theorem witness_SettleEndsWithinTwelveOperations :
    ({ live with pfSck := true, pfCs := true, pfTov := true, value := 1 } : State).ctx = [] ∧
      (settleFor 13 { live with pfSck := true, pfCs := true, pfTov := true, value := 1 }).1.length = 12 := by decide
/-- A state of the invariant that is not quiescent: a handler is running and the two other sources are pending. -/
theorem witness_SettleReachesAQuiescentState : Inv { running .wsave with t := 0x2000, pfSck := true, pfCs := true } ∧
    (settle { running .wsave with t := 0x2000, pfSck := true, pfCs := true }).1.length = 10 := by
  refine ⟨?_, by decide⟩
  constructor <;> simp [running, live, State.reset, State.powerOn, Config.default, Critical, ocr, joinBytes]
/-- Both clauses: nothing new, and a new word. -/
theorem witness_TickAppliesTheLatchedWordWithOneWriteAtMost :
    (Inv live ∧ live.started = true ∧ Quiescent live ∧ live.value = live.oldValue) ∧
      Inv { live with value := 0xACE1 } ∧ Quiescent { live with value := 0xACE1 } ∧
      ({ live with value := 0xACE1 } : State).value ≠ live.oldValue :=
  ⟨⟨live_inv, rfl, live_quiescent, rfl⟩, inv_of_quiet _ rfl rfl rfl (by decide) (by decide) (by decide),
    quiescent_of_quiet _ rfl rfl rfl rfl, by decide⟩
theorem witness_FrameLatchesTheWordSent :
    Inv live ∧ live.started = true ∧ Quiescent live ∧ live.sck = false ∧ live.bits.toNat = 0 :=
  ⟨live_inv, rfl, live_quiescent, rfl, rfl⟩
/-- The smallest and the greatest number of stale bits. -/
theorem witness_FrameAfterAShortFrameLatchesTheStaleBits :
    (Inv { live with receive := 1, bits := 1 } ∧ Quiescent { live with receive := 1, bits := 1 } ∧
      0 < ({ live with receive := 1, bits := 1 } : State).bits.toNat) ∧
      (Inv { live with receive := 0x5670, bits := 15 } ∧ Quiescent { live with receive := 0x5670, bits := 15 } ∧
        ({ live with receive := 0x5670, bits := 15 } : State).bits.toNat < 16) ∧
      live.started = true ∧ live.sck = false ∧ live.cfg.resetOnDiscard = false :=
  ⟨⟨inv_of_quiet _ rfl rfl rfl (by decide) (by decide) (by decide), quiescent_of_quiet _ rfl rfl rfl rfl, by decide⟩,
    ⟨inv_of_quiet _ rfl rfl rfl (by decide) (by decide) (by decide), quiescent_of_quiet _ rfl rfl rfl rfl, by decide⟩,
    rfl, rfl, rfl⟩
/-- Vector V12's start. -/
theorem witness_SixteenthEdgePendingWithTheReleaseLosesTheFrame :
    Inv { live with receive := 0x5670, bits := 15, csN := false } ∧
      Quiescent { live with receive := 0x5670, bits := 15, csN := false } ∧ live.started = true ∧ live.cfg.prio = .any ∧
      live.sck = false ∧ ({ live with receive := 0x5670, bits := 15, csN := false } : State).bits.toNat = 15 :=
  ⟨inv_of_quiet _ rfl rfl rfl (by decide) (by decide) (by decide), quiescent_of_quiet _ rfl rfl rfl rfl, rfl, rfl, rfl, rfl⟩
theorem witness_UndispatchedClockEdgesCoalesce : Inv live ∧ live.started = true ∧ Quiescent live ∧ live.sck = false :=
  ⟨live_inv, rfl, live_quiescent, rfl⟩

/-- Overflow, dispatch, compare, over and over: an infinite execution that is fair to the block (60_exceptions.md R161). -/
def overflowOps (n : Nat) : Instr := if n % 3 = 0 then .tov else if n % 3 = 1 then .irqTov else .ucmp
def overflowStates (n : Nat) : State :=
  if n % 3 = 0 then live else if n % 3 = 1 then { live with pfTov := true } else running .ucmp
theorem witness_FairExecution : FairExecution overflowOps overflowStates ∧ (overflowStates 2).ctx ≠ [] ∧
    ∀ m, 2 ≤ m → overflowOps m ≠ .reset := by
  refine ⟨⟨fun n => ?_, fun n _ => ⟨3 * n + 1, by omega, ?_⟩⟩, by decide, fun m _ => ?_⟩
  · obtain h | h | h : n % 3 = 0 ∨ n % 3 = 1 ∨ n % 3 = 2 := by omega
    · simp only [overflowOps, overflowStates, h, show (n + 1) % 3 = 1 by omega]; rfl
    · simp only [overflowOps, overflowStates, h, show (n + 1) % 3 = 2 by omega]; rfl
    · simp only [overflowOps, overflowStates, h, show (n + 1) % 3 = 0 by omega]; rfl
  · simp only [overflowOps, show (3 * n + 1) % 3 = 1 by omega]; rfl
  · unfold overflowOps; split_ifs <;> decide

end Sys2Proof.Tests
end

section
/-! The parameters are constants of the machine (00_scope.md R5): no operation, no step and no run changes `cfg`. -/

namespace Sys2Proof.Machine

/-- What `effect_frame` says of the effect, said of the operation's outcome. -/
theorem exec_cfg {i : Instr} {s u : State} (h : exec i s = .next u) : u.cfg = s.cfg := by
  obtain ⟨-, rfl⟩ := (exec_next_iff i s u).mp h
  obtain ⟨hcfg, -, -⟩ := effect_frame i s
  exact hcfg

/-- A step performs an operation of the trace, performs one of the block's own, or is idle. -/
theorem step_cfg {s u : State} (h : step s = .next u) : u.cfg = s.cfg := by
  obtain ⟨i, t, -, hexec, rfl⟩ | ⟨i, -, hexec⟩ | ⟨-, rfl⟩ := (step_next s u).mp h
  · exact (consume_cfg t).trans (exec_cfg hexec)
  · exact exec_cfg hexec
  · rfl

/-- Settles O45: having the parameters of the first state is a property that every step keeps, hence every run does. -/
theorem parametersNeverChange : Obligations.ParametersNeverChange := by
  intro k s u hrun
  have hkeeps : ∀ v w : State, v.cfg = s.cfg → step v = .next w → w.cfg = s.cfg :=
    fun _ _ hv hstep => (step_cfg hstep).trans hv
  exact run_keeps hkeeps rfl hrun

end Sys2Proof.Machine
end

section
/-! The invariant `Inv`: it holds at power-on, every operation and every step keep it, and it gives the invariants of
10_state.md R25. The Output Updater's frame, when it is on top of `ctx`, is the only one of its handler (R24), so what `Inv` says
of the updater's micro-operations is then a fact about the top frame alone: `UpdaterAt`. Each updater operation is proved by
taking one `UpdaterAt` to the next. -/

namespace Sys2Proof.Machine

/-! ### Frames on `ctx` -/

/-- Only a frame of the Output Updater can be in the critical section. -/
theorem not_critical_of_handler_ne_tov {m : Micro} (h : m.handler ≠ .tov) : ¬ Critical m := by
  rintro (rfl | rfl | rfl) <;> exact h rfl

/-- No handler enters at the critical section. -/
theorem not_critical_entry (x : Source) : ¬ Critical x.entry := by
  cases x <;> simp [Critical, Source.entry]

@[simp] theorem handler_entry (x : Source) : x.entry.handler = x := by cases x <;> rfl

section
variable {s : State} {m : Micro} {rest : List Micro}

/-- No handler runs before START. -/
theorem Inv.started_of_running (h : Inv s) (hctx : s.ctx ≠ []) : s.started = true := by
  by_contra hns
  obtain ⟨-, hempty, -⟩ := h.before_start (Bool.eq_false_iff.mpr hns)
  exact hctx hempty

/-- Below the top frame no frame has the top frame's handler. -/
theorem Inv.handler_ne_below_top (h : Inv s) (hctx : s.ctx = m :: rest) : ∀ k ∈ rest, k.handler ≠ m.handler := by
  have hnodup := h.one_frame
  rw [hctx, List.map_cons, List.nodup_cons] at hnodup
  exact fun k hk heq => hnodup.1 (heq ▸ List.mem_map_of_mem hk)

/-- Below the Output Updater's frame there is no other frame of the Output Updater. -/
theorem Inv.updater_alone (h : Inv s) (hctx : s.ctx = m :: rest) (hm : m.handler = .tov) :
    ∀ k ∈ rest, k.handler ≠ .tov :=
  hm ▸ h.handler_ne_below_top hctx

/-- Interrupts are enabled only outside the critical section. -/
theorem Inv.not_critical_of_gie (h : Inv s) (hgie : s.gie = true) : ∀ m ∈ s.ctx, ¬ Critical m := by
  obtain ⟨-, hcritical, -⟩ := h.gie_iff.mp hgie
  exact hcritical

end

/-! ### Operations outside the handlers -/

/-- `Inv` reads neither the trace nor its position. -/
theorem Inv.of_trace {s : State} (h : Inv s) (cs : List Byte) (n : Nat) : Inv { s with trace := cs, pos := n } :=
  { h with }

theorem inv_consume {s : State} (h : Inv s) : Inv (consume s) := h.of_trace _ _

/-- `Inv` reads no pin. -/
theorem inv_pinWrite {s : State} (h : Inv s) (p : Pin) (l : Level) : Inv (pinWrite p l s) := by
  cases p <;> exact { h with }

/-- A request before START is lost (60_exceptions.md R153), and afterwards `Inv` reads no pending flag. -/
theorem inv_request {s : State} (h : Inv s) (x : Source) (b : Bool) : Inv (request x b s) := by
  have hbefore : s.started = false →
      (∀ y : Source, pending y (request x b s) = false) ∧ s.ctx = [] ∧ RegistersAtReset s := by
    intro hns
    obtain ⟨hpending, hrest⟩ := h.before_start hns
    exact ⟨fun y => by simp [hpending y, hns], hrest⟩
  cases x <;> exact { h with before_start := hbefore }

/-- The invariant of a block at the reset values of 10_state.md R30. -/
theorem inv_of_reset_values {s : State} (hreset : RegistersAtReset s) (hgie : s.gie = false)
    (hpending : ∀ x : Source, pending x s = false) (hstarted : s.started = false) (hctx : s.ctx = []) : Inv s := by
  have hall := hreset
  obtain ⟨hreceive, hbits, -, hold, -, -, hocr⟩ := hreset
  constructor
  case bits_le => simp [hbits]
  case receive_lt => simp [hreceive]
  case gie_iff => simp [hgie, hstarted]
  case shadow => simp [hold, hocr]
  case before_start => exact fun _ => ⟨hpending, hctx, hall⟩
  all_goals simp [hctx]

/-- Two cells at 0 make `OCR` 0. -/
theorem joinBytes_zero : joinBytes 0 0 = 0 := by decide

theorem inv_powerOn (cfg : Config) : Inv (State.powerOn cfg) :=
  inv_of_reset_values ⟨rfl, rfl, rfl, rfl, rfl, rfl, joinBytes_zero⟩ rfl (fun x => by cases x <;> rfl) rfl rfl

theorem inv_resetEffect (s : State) : Inv (resetEffect s) :=
  inv_of_reset_values ⟨rfl, rfl, rfl, rfl, rfl, rfl, joinBytes_zero⟩ rfl (fun x => by cases x <;> rfl) rfl rfl

/-- START finds `ctx` empty, so `GIE` may become 1. -/
theorem Inv.start {s : State} (h : Inv s) (hns : s.started = false) : Inv { s with started := true, gie := true } := by
  obtain ⟨-, hctx, -⟩ := h.before_start hns
  exact { h with gie_iff := by simp [hctx], before_start := nofun }

/-- A dispatch finds `GIE` at 1: no frame on `ctx` is in the critical section, and without nesting there is no frame. -/
theorem inv_takeInterrupt {s : State} {x : Source} (h : Inv s) (hd : dispatchable x s = true) :
    Inv (takeInterrupt x s) := by
  obtain ⟨hstarted, hgie, -, hnoframe⟩ := (dispatchable_iff x s).mp hd
  obtain ⟨-, hcritical, hnesting⟩ := h.gie_iff.mp hgie
  have hentry := not_critical_entry x
  constructor
  case bits_le => simpa using h.bits_le
  case receive_lt => simpa using h.receive_lt
  case one_frame => simpa [h.one_frame] using hnoframe
  case unnested =>
    intro hn
    have hempty : s.ctx = [] := by simpa [show s.cfg.nesting = false by simpa using hn] using hnesting
    simp [hempty]
  case critical_top => simpa using hcritical
  case gie_iff => simpa [hgie, hstarted, hentry] using fun _ => hcritical
  case saved =>
    have hwcli : x.entry ≠ .wcli := by cases x <;> nofun
    simpa [hwcli, hentry] using h.saved
  case shadow =>
    intro hbelow
    have hbelow' : ∀ m ∈ s.ctx, m ≠ .wlo ∧ m ≠ .wrest ∧ m ≠ .urec := fun m hm => hbelow m (by simp [hm])
    simpa [ocr] using h.shadow hbelow'
  case torn =>
    have hwlo : Micro.wlo ≠ x.entry := by cases x <;> nofun
    simpa [hwlo] using h.torn
  case written =>
    have hwrest : Micro.wrest ≠ x.entry := by cases x <;> nofun
    have hurec : Micro.urec ≠ x.entry := by cases x <;> nofun
    simpa [hwrest, hurec, ocr] using h.written
  case before_start => simp [hstarted]

/-! ### The return of a handler -/

/-- A return sets `GIE`: below the top frame nothing is in the critical section, and without nesting nothing is there at all.
What is left to show is that `old_value` is `OCR` where the return leaves no written frame. -/
theorem inv_handlerReturn {s : State} {m : Micro} {rest : List Micro} (h : Inv s) (hctx : s.ctx = m :: rest)
    (hshadow : (∀ k ∈ rest, k ≠ .wlo ∧ k ≠ .wrest ∧ k ≠ .urec) → s.oldValue = ocr s) : Inv (handlerReturn s) := by
  have hstarted : s.started = true := h.started_of_running (by simp [hctx])
  have hcritical : ∀ k ∈ rest, ¬ Critical k := by simpa [hctx] using h.critical_top
  have hnesting : s.cfg.nesting = true ∨ rest = [] := by
    cases hn : s.cfg.nesting with
    | true => exact .inl rfl
    | false => exact .inr (by simpa [hctx] using h.unnested hn)
  have hmem : ∀ k ∈ rest, k ∈ s.ctx := by simp +contextual [hctx]
  constructor
  case bits_le => exact h.bits_le
  case receive_lt => exact h.receive_lt
  case one_frame =>
    have hnodup := h.one_frame
    rw [hctx, List.map_cons, List.nodup_cons] at hnodup
    simpa [hctx] using hnodup.2
  case unnested =>
    intro hn
    have hlength : rest.length + 1 ≤ 1 := by simpa [hctx] using h.unnested hn
    simpa [hctx] using Nat.le_of_succ_le hlength
  case critical_top => simpa [hctx] using fun k hk => hcritical k (List.mem_of_mem_tail hk)
  case gie_iff => simpa [hctx, hstarted] using ⟨hcritical, hnesting⟩
  case saved => simpa [hctx] using fun k hk => h.saved k (hmem k hk)
  case shadow => simpa [hctx, ocr] using hshadow
  case torn => simpa [hctx] using fun hk => h.torn (hmem _ hk)
  case written => simpa [hctx, ocr] using fun hk => h.written (hk.imp (hmem _) (hmem _))
  case before_start => simp [hstarted]

/-- The return of the Bit Receiver or of the Frame Latch, whose frame says nothing of `OCR`. -/
theorem inv_handlerReturn_of_ne_tov {s : State} {m : Micro} {rest : List Micro} (h : Inv s) (hctx : s.ctx = m :: rest)
    (hm : m.handler ≠ .tov) : Inv (handlerReturn s) := by
  refine inv_handlerReturn h hctx fun hbelow => h.shadow ?_
  have htop : m ≠ .wlo ∧ m ≠ .wrest ∧ m ≠ .urec := by
    refine ⟨?_, ?_, ?_⟩ <;> rintro rfl <;> exact hm rfl
  simpa [hctx, htop] using hbelow

/-! ### Bit Receiver and Frame Latch -/

/-- One accepted bit: `bits` is below 16, so it counts up without overflow, and the accumulator gains one bit at most. -/
theorem inv_receiveBit {s : State} (h : Inv s) (hstarted : s.started = true) : Inv (receiveBit s) := by
  unfold receiveBit
  split
  case isFalse => exact h
  case isTrue haccept =>
    obtain ⟨-, hlt⟩ := (acceptsBit_iff s).mp haccept
    have hcount : (s.bits + 1).toNat = s.bits.toNat + 1 := by
      exact BitVec.toNat_add_of_lt (by simpa using Nat.lt_trans (Nat.succ_lt_succ hlt) (by decide))
    have hbits : (s.bits + 1).toNat ≤ 16 := by omega
    have hreceive : (shiftIn s.receive (pinRead .sdi s)).toNat < 2 ^ (s.bits + 1).toNat := by
      have hold := h.receive_lt
      have hlevel := Bool.toNat_le (pinRead .sdi s)
      have hmod := Nat.mod_le (2 * s.receive.toNat + (pinRead .sdi s).toNat) 65536
      rw [shiftIn_toNat, hcount, Nat.pow_succ]
      omega
    exact { h with
      bits_le := hbits
      receive_lt := hreceive
      before_start := by simp [hstarted] }

/-- RXBIT (41_bit_receiver.md R100). -/
theorem inv_rxbit {s : State} (h : Inv s) (htop : atTop .rxbit s = true) : Inv (handlerReturn (receiveBit s)) := by
  obtain ⟨rest, hctx⟩ := (atTop_iff .rxbit s).mp htop
  have hreceived : Inv (receiveBit s) := inv_receiveBit h (h.started_of_running (by simp [hctx]))
  exact inv_handlerReturn_of_ne_tov hreceived ((receiveBit_ctx s).trans hctx) (by decide)

theorem inv_clearFrame {s : State} (h : Inv s) (hstarted : s.started = true) : Inv (clearFrame s) :=
  { h with
    bits_le := Nat.zero_le _
    receive_lt := Nat.one_pos
    before_start := by simp [hstarted] }

/-- The Frame Latch leaves the receiver as it is or empty. -/
theorem inv_latchFrame {s : State} (h : Inv s) (hstarted : s.started = true) : Inv (latchFrame s) := by
  have hpublished : Inv { s with value := s.receive } := { h with before_start := by simp [hstarted] }
  unfold latchFrame
  split_ifs
  · exact inv_clearFrame hpublished hstarted
  · exact inv_clearFrame h hstarted
  · exact h

/-- FLATCH (42_frame_latch.md R110). -/
theorem inv_flatch {s : State} (h : Inv s) (htop : atTop .flatch s = true) : Inv (handlerReturn (latchFrame s)) := by
  obtain ⟨rest, hctx⟩ := (atTop_iff .flatch s).mp htop
  have hlatched : Inv (latchFrame s) := inv_latchFrame h (h.started_of_running (by simp [hctx]))
  exact inv_handlerReturn_of_ne_tov hlatched ((latchFrame_ctx s).trans hctx) (by decide)

/-! ### The Output Updater and the PWM Register Writer -/

/-- What `Inv` says of the state when the Output Updater's frame is on top and stands at `m`. -/
structure UpdaterAt (m : Micro) (s : State) : Prop where
  gie_iff : s.gie = true ↔ ¬ Critical m ∧ s.cfg.nesting = true
  saved : m = .wcli ∨ Critical m → s.sv = s.cfg.nesting
  shadow : m ≠ .wlo ∧ m ≠ .wrest ∧ m ≠ .urec → s.oldValue = ocr s
  torn : m = .wlo → s.ocrh = highByte s.t ∧ s.ocrl = lowByte s.oldValue
  written : m = .wrest ∨ m = .urec → ocr s = s.t

/-- `u` is `s` but for `ctx`, `GIE` and what the Output Updater and the PWM Register Writer own (10_state.md R26). -/
def SameButUpdater (s u : State) : Prop :=
  u = { s with
    oldValue := u.oldValue, t := u.t, sv := u.sv, ocrh := u.ocrh, ocrl := u.ocrl, gie := u.gie, ctx := u.ctx }

section
variable {s u : State} {m m' : Micro} {rest : List Micro}

theorem SameButUpdater.receive (h : SameButUpdater s u) : u.receive = s.receive := by
  rw [h]

theorem SameButUpdater.bits (h : SameButUpdater s u) : u.bits = s.bits := by
  rw [h]

theorem SameButUpdater.started (h : SameButUpdater s u) : u.started = s.started := by
  rw [h]

theorem SameButUpdater.cfg (h : SameButUpdater s u) : u.cfg = s.cfg := by
  rw [h]

/-- From the invariant to the top frame. -/
theorem Inv.updaterAt (h : Inv s) (hctx : s.ctx = m :: rest) (hm : m.handler = .tov) : UpdaterAt m s := by
  have hstarted : s.started = true := h.started_of_running (by simp [hctx])
  have hbelow := h.updater_alone hctx hm
  have hcritical : ∀ k ∈ rest, ¬ Critical k := fun k hk => not_critical_of_handler_ne_tov (hbelow k hk)
  have htop : m ∈ s.ctx := by simp [hctx]
  constructor
  case gie_iff => simpa [hctx, hstarted, and_iff_left hcritical] using h.gie_iff
  case saved => exact h.saved m htop
  case shadow =>
    refine fun hne => h.shadow ?_
    have hrest : ∀ k ∈ rest, k ≠ .wlo ∧ k ≠ .wrest ∧ k ≠ .urec := fun k hk => by
      refine ⟨?_, ?_, ?_⟩ <;> rintro rfl <;> exact hbelow _ hk rfl
    simpa [hctx, hne] using hrest
  case torn => rintro rfl; exact h.torn htop
  case written =>
    rintro (rfl | rfl)
    · exact h.written (.inl htop)
    · exact h.written (.inr htop)

/-- From the top frame back to the invariant, the updater's frame having gone on from `m` to `m'`. -/
theorem inv_of_updaterAt (h : Inv s) (hctx : s.ctx = m :: rest) (hm : m.handler = .tov) (hu : SameButUpdater s u)
    (hctx' : u.ctx = m' :: rest) (hm' : m'.handler = .tov) (hat : UpdaterAt m' u) : Inv u := by
  have hstarted : u.started = true := hu.started.trans (h.started_of_running (by simp [hctx]))
  have hbelow := h.updater_alone hctx hm
  have hcritical : ∀ k ∈ rest, ¬ Critical k := fun k hk => not_critical_of_handler_ne_tov (hbelow k hk)
  have hne : ∀ k ∈ rest, ∀ n : Micro, n.handler = .tov → k ≠ n := fun k hk n hn heq => hbelow k hk (heq ▸ hn)
  constructor
  case bits_le => exact hu.bits ▸ h.bits_le
  case receive_lt => exact hu.bits ▸ hu.receive ▸ h.receive_lt
  case one_frame => simpa [hctx, hctx', hm, hm'] using h.one_frame
  case unnested => simpa [hctx, hctx', hu.cfg] using h.unnested
  case critical_top => simpa [hctx'] using hcritical
  case gie_iff => simpa [hctx', hstarted, and_iff_left hcritical] using hat.gie_iff
  case saved =>
    intro k hk hat_k
    obtain rfl | hk := List.mem_cons.mp (hctx' ▸ hk)
    · exact hat.saved hat_k
    · exact (hat_k.elim (hne k hk .wcli rfl) (hcritical k hk)).elim
  case shadow => exact fun hall => hat.shadow (hall m' (by simp [hctx']))
  case torn =>
    intro hmem
    obtain heq | hk := List.mem_cons.mp (hctx' ▸ hmem)
    · exact hat.torn heq.symm
    · exact (hne _ hk .wlo rfl rfl).elim
  case written =>
    have htop : ∀ n : Micro, n.handler = .tov → n ∈ u.ctx → m' = n := fun n hn hmem => by
      obtain heq | hk := List.mem_cons.mp (hctx' ▸ hmem)
      · exact heq.symm
      · exact (hne _ hk n hn rfl).elim
    exact fun hmem => hat.written (hmem.imp (htop _ rfl) (htop _ rfl))
  case before_start => simp [hstarted]

end

/-! ### From one micro-operation of the updater to the next -/

section
variable {s : State}

/-- Away from the critical section `GIE` is the parameter `NESTING` while the updater is on top. -/
theorem UpdaterAt.gie_eq_nesting {m : Micro} (h : UpdaterAt m s) (hm : ¬ Critical m) : s.gie = s.cfg.nesting :=
  Bool.eq_iff_iff.mpr (h.gie_iff.trans (and_iff_right hm))

/-- UCMP, the snapshot: before the write nothing speaks of `t`. -/
theorem UpdaterAt.snapshot (h : UpdaterAt .ucmp s) : UpdaterAt .ucmp { s with t := s.value } :=
  { h with torn := nofun, written := nofun }

/-- UCMP, going on: nothing is saved or written yet. -/
theorem UpdaterAt.enterWriter (h : UpdaterAt .ucmp s) : UpdaterAt .wsave (setPc .wsave s) where
  gie_iff := by simpa [Critical] using h.gie_iff
  saved := by simp [Critical]
  shadow _ := h.shadow (by decide)
  torn := nofun
  written := nofun

/-- WSAVE saves `GIE`, which is `NESTING` here. -/
theorem UpdaterAt.saveEnable (h : UpdaterAt .wsave s) : UpdaterAt .wcli (setPc .wcli { s with sv := s.gie }) where
  gie_iff := by simpa [Critical] using h.gie_iff
  saved _ := h.gie_eq_nesting (by simp [Critical])
  shadow _ := h.shadow (by decide)
  torn := nofun
  written := nofun

/-- WCLI clears `GIE` and enters the critical section. -/
theorem UpdaterAt.disable (h : UpdaterAt .wcli s) : UpdaterAt .whi (setPc .whi { s with gie := false }) where
  gie_iff := by simp [Critical]
  saved _ := h.saved (.inl rfl)
  shadow _ := h.shadow (by decide)
  torn := nofun
  written := nofun

/-- WHI: the low byte is still that of `old_value`, which was `OCR`. -/
theorem UpdaterAt.writeHigh (h : UpdaterAt .whi s) :
    UpdaterAt .wlo (setPc .wlo (memWrite .ocrh (highByte s.t) s)) where
  gie_iff := by simpa [Critical] using h.gie_iff
  saved _ := by simpa using h.saved (.inr (.inl rfl))
  shadow := by simp
  torn _ := by
    have hold : s.oldValue = ocr s := h.shadow (by decide)
    simp [hold, ocr]
  written := nofun

/-- WLO: with the high byte in place the low one completes the word. -/
theorem UpdaterAt.writeLow (h : UpdaterAt .wlo s) :
    UpdaterAt .wrest (setPc .wrest (memWrite .ocrl (lowByte s.t) s)) where
  gie_iff := by simpa [Critical] using h.gie_iff
  saved _ := by simpa using h.saved (.inr (.inr (.inl rfl)))
  shadow := by simp
  torn := nofun
  written _ := by
    obtain ⟨hhigh, -⟩ := h.torn rfl
    simp [ocr, hhigh]

/-- WREST leaves the critical section with the saved enable, which is `NESTING`. -/
theorem UpdaterAt.restoreEnable (h : UpdaterAt .wrest s) : UpdaterAt .urec (setPc .urec { s with gie := s.sv }) where
  gie_iff := by
    have hsaved : s.sv = s.cfg.nesting := h.saved (.inr (.inr (.inr rfl)))
    simp [Critical, hsaved]
  saved := by simp [Critical]
  shadow := by simp
  torn := nofun
  written _ := h.written (.inl rfl)

/-- UREC: once the word is written nothing speaks of `old_value`. -/
theorem UpdaterAt.record (h : UpdaterAt .urec s) : UpdaterAt .urec { s with oldValue := s.t } :=
  { h with shadow := by simp, torn := nofun }

end

section
variable {s : State} {m : Micro}

/-- An updater operation that goes on at `m'` keeps the invariant when it takes `UpdaterAt m` to `UpdaterAt m'`. -/
theorem inv_setPc {m' : Micro} {v : State} (h : Inv s) (htop : atTop m s = true) (hm : m.handler = .tov)
    (hm' : m'.handler = .tov) (hv : SameButUpdater s v) (hctx : v.ctx = s.ctx)
    (hstep : UpdaterAt m s → UpdaterAt m' (setPc m' v)) : Inv (setPc m' v) := by
  obtain ⟨rest, hrest⟩ := (atTop_iff m s).mp htop
  have hsame : SameButUpdater s (setPc m' v) := congrArg (setPc m') hv
  exact inv_of_updaterAt h hrest hm hsame (by simp [hctx, hrest]) hm' (hstep (h.updaterAt hrest hm))

/-- UCMP returns with `OCR` untouched, or goes on at the writer. -/
theorem inv_compareValue (h : Inv s) (htop : atTop .ucmp s = true) : Inv (compareValue s) := by
  obtain ⟨rest, hctx⟩ := (atTop_iff .ucmp s).mp htop
  have hat : UpdaterAt .ucmp { s with t := s.value } := (h.updaterAt hctx rfl).snapshot
  have hsnap : Inv { s with t := s.value } := inv_of_updaterAt h hctx rfl rfl hctx rfl hat
  simp only [compareValue]
  split
  · exact inv_handlerReturn hsnap hctx fun _ => hat.shadow (by decide)
  · exact inv_setPc hsnap htop rfl rfl rfl rfl UpdaterAt.enterWriter

/-- UREC returns with `old_value` the word that was written. -/
theorem inv_urec (h : Inv s) (htop : atTop .urec s = true) : Inv (handlerReturn { s with oldValue := s.t }) := by
  obtain ⟨rest, hctx⟩ := (atTop_iff .urec s).mp htop
  have hat := h.updaterAt hctx rfl
  have hrec : Inv { s with oldValue := s.t } := inv_of_updaterAt h hctx rfl rfl hctx rfl hat.record
  exact inv_handlerReturn hrec hctx fun _ => (hat.written (.inr rfl)).symm

end

/-! ### Every operation and every step -/

/-- An enabled interrupt's source is dispatchable: conditions (a) to (d) of 60_exceptions.md R156. -/
theorem dispatchable_of_irqEnabled {x : Source} {s : State} (h : irqEnabled x s = true) : dispatchable x s = true := by
  obtain ⟨hdispatchable, -⟩ := (Bool.and_eq_true_iff).mp h
  exact hdispatchable

/-- Every operation keeps the invariant. -/
theorem inv_exec {i : Instr} {s u : State} (h : Inv s) (hexec : exec i s = .next u) : Inv u := by
  obtain ⟨hen, rfl⟩ := (exec_next_iff i s u).mp hexec
  cases i with
  | reset => exact inv_resetEffect s
  | start => exact h.start (by simpa [enabled] using hen)
  | sdi l => exact inv_pinWrite h .sdi l
  | sck l => exact inv_pinWrite (inv_request h .sck _) .sck l
  | csn l => exact inv_pinWrite (inv_request h .cs _) .csN l
  | tov => exact inv_request h .tov true
  | irqSck => exact inv_takeInterrupt h (dispatchable_of_irqEnabled (x := .sck) hen)
  | irqCs => exact inv_takeInterrupt h (dispatchable_of_irqEnabled (x := .cs) hen)
  | irqTov => exact inv_takeInterrupt h (dispatchable_of_irqEnabled (x := .tov) hen)
  | rxbit => exact inv_rxbit h hen
  | flatch => exact inv_flatch h hen
  | ucmp => exact inv_compareValue h hen
  | wsave => exact inv_setPc h hen rfl rfl rfl rfl UpdaterAt.saveEnable
  | wcli => exact inv_setPc h hen rfl rfl rfl rfl UpdaterAt.disable
  | whi => exact inv_setPc h hen rfl rfl rfl rfl UpdaterAt.writeHigh
  | wlo => exact inv_setPc h hen rfl rfl rfl rfl UpdaterAt.writeLow
  | wrest => exact inv_setPc h hen rfl rfl rfl rfl UpdaterAt.restoreEnable
  | urec => exact inv_urec h hen

theorem inv_step {s u : State} (h : Inv s) (hstep : step s = .next u) : Inv u := by
  obtain ⟨i, t, -, hexec, rfl⟩ | ⟨i, -, hexec⟩ | ⟨-, rfl⟩ := (step_next s u).mp hstep
  · exact inv_consume (inv_exec h hexec)
  · exact inv_exec h hexec
  · exact h

/-- A run from power-on meets the invariant in the state it reaches. -/
theorem inv_runOps_powerOn {cfg : Config} {is : List Instr} {u : State} (h : runOps is (State.powerOn cfg) = some u) :
    Inv u :=
  runOps_keeps (fun _ _ _ => inv_exec) (inv_powerOn cfg) h

/-- No run of operations changes the parameters. -/
theorem runOps_cfg {is : List Instr} {s u : State} (h : runOps is s = some u) : u.cfg = s.cfg :=
  runOps_keeps (P := fun v => v.cfg = s.cfg) (fun _ _ _ hv hexec => (exec_cfg hexec).trans hv) rfl h

/-! ### The invariants of the spec -/

/-- Each of the six from the clauses of `Inv`; the ones on `GIE` are all in `gie_iff`. -/
theorem Inv.spec {s : State} (h : Inv s) : SpecInvariants s where
  bits_le := h.bits_le
  receive_lt := h.receive_lt
  shadow hnone := h.shadow fun m hm => by
    refine ⟨?_, ?_, ?_⟩ <;> rintro rfl <;> exact hnone _ hm rfl
  writing_disabled hgie :=
    ⟨fun hm => h.not_critical_of_gie hgie _ hm (.inl rfl), fun hm => h.not_critical_of_gie hgie _ hm (.inr (.inl rfl))⟩
  before_start hns := by
    have hgie : s.gie = false := by simpa [hns] using h.gie_iff
    exact ⟨hgie, h.before_start hns⟩
  unnested_disabled hn hctx := by simpa [hn, hctx] using h.gie_iff

/-- There are three handlers, so a context stack with at most one frame of each has at most three frames (10_state.md R24). -/
theorem length_le_three_of_one_frame {ctx : List Micro} (h : (ctx.map Micro.handler).Nodup) : ctx.length ≤ 3 := by
  have hall : ctx.map Micro.handler ⊆ [.sck, .cs, .tov] := fun x _ => by cases x <;> simp
  have hlength : (ctx.map Micro.handler).length ≤ 3 := (List.subperm_of_subset h hall).length_le
  simpa using hlength

/-! ### The statements -/

/-- Settles O46: power-on is at the reset values, and `Inv` does not read the trace. -/
theorem powerOnMeetsTheStepInvariant : Obligations.PowerOnMeetsTheStepInvariant := by
  intro cfg cs
  exact (inv_powerOn cfg).of_trace cs 0

/-- Settles O47: a step performs one operation, and every operation keeps the invariant. -/
theorem everyStepKeepsTheStepInvariant : Obligations.EveryStepKeepsTheStepInvariant := by
  intro s u
  exact inv_step

/-- Settles O48, one clause at a time (`Inv.spec`). -/
theorem stepInvariantGivesTheSpecInvariants : Obligations.StepInvariantGivesTheSpecInvariants := by
  intro s
  exact Inv.spec

/-- Settles O49: the invariant holds at power-on and every step keeps it, so it holds after every run. -/
theorem specInvariantsHoldOnEveryRun : Obligations.SpecInvariantsHoldOnEveryRun := by
  intro cfg cs k u hrun
  have hinv : Inv u := run_keeps (fun _ _ => inv_step) (powerOnMeetsTheStepInvariant cfg cs) hrun
  exact hinv.spec

/-- Settles O50: the clauses of the invariant on the shape of `ctx`, in the state the run reaches. -/
theorem contextHoldsOneFramePerHandler : Obligations.ContextHoldsOneFramePerHandler := by
  intro cfg is u hrun
  have hinv : Inv u := inv_runOps_powerOn hrun
  have hcfg : u.cfg = cfg := runOps_cfg hrun
  exact ⟨hinv.one_frame, length_le_three_of_one_frame hinv.one_frame, fun hn => hinv.unnested (hcfg ▸ hn)⟩

end Sys2Proof.Machine
end

section
/-! Who writes and who reads what: the reset table (10_state.md R30), the column "Written by" of 10_state.md R26 row by row, and
the two cells of `OCR`, which no operation reads (10_state.md R17, 20_memory.md R40). -/

namespace Sys2Proof.Machine

/-- Settles O12: every register of the table is its reset value by definition; `OCR` is the join of two cells at 0. -/
theorem powerOnStateIsTheResetTable : Obligations.PowerOnStateIsTheResetTable := by
  refine ⟨fun cfg => ?_, rfl, rfl, rfl⟩
  have hocr : (ocr (State.powerOn cfg)).toNat = 0 := congrArg BitVec.toNat joinBytes_zero
  have hpending : ∀ x : Source, pending x (State.powerOn cfg) = false := fun x => by cases x <;> rfl
  exact ⟨rfl, rfl, rfl, rfl, rfl, rfl, hocr, rfl, hpending, rfl, rfl, rfl, rfl, rfl, rfl⟩

/-! ### The writers of each field

One lemma per row of the table: the cases named are the row's writers, and every other operation leaves the field as it was. -/

section
variable (i : Instr) (s : State)

theorem receive_writers : (effect i s).receive ≠ s.receive → i = .rxbit ∨ i = .flatch ∨ i = .reset := by
  cases i with
  | rxbit | flatch | reset => simp
  | _ => simp [effect]

theorem bits_writers : (effect i s).bits ≠ s.bits → i = .rxbit ∨ i = .flatch ∨ i = .reset := by
  cases i with
  | rxbit | flatch | reset => simp
  | _ => simp [effect]

theorem value_writers : (effect i s).value ≠ s.value → i = .flatch ∨ i = .reset := by
  cases i with
  | flatch | reset => simp
  | _ => simp [effect]

theorem oldValue_writers : (effect i s).oldValue ≠ s.oldValue → i = .urec ∨ i = .reset := by
  cases i with
  | urec | reset => simp
  | _ => simp [effect]

theorem t_writers : (effect i s).t ≠ s.t → i = .ucmp ∨ i = .reset := by
  cases i with
  | ucmp | reset => simp
  | _ => simp [effect]

theorem sv_writers : (effect i s).sv ≠ s.sv → i = .wsave ∨ i = .reset := by
  cases i with
  | wsave | reset => simp
  | _ => simp [effect]

theorem ocrh_writers : (effect i s).ocrh ≠ s.ocrh → i = .whi ∨ i = .reset := by
  cases i with
  | whi | reset => simp
  | _ => simp [effect]

theorem ocrl_writers : (effect i s).ocrl ≠ s.ocrl → i = .wlo ∨ i = .reset := by
  cases i with
  | wlo | reset => simp
  | _ => simp [effect]

theorem memRead_writers (c : IoCell) : memRead c (effect i s) ≠ memRead c s →
    i = .reset ∨ (c = .ocrh ∧ i = .whi) ∨ (c = .ocrl ∧ i = .wlo) := by
  intro h
  cases c with
  | ocrh => exact (ocrh_writers i s h).elim (fun hi => .inr (.inl ⟨rfl, hi⟩)) .inl
  | ocrl => exact (ocrl_writers i s h).elim (fun hi => .inr (.inr ⟨rfl, hi⟩)) .inl

theorem gie_writers : (effect i s).gie ≠ s.gie →
    i = .start ∨ (∃ x : Source, i = x.instr) ∨ i = .wcli ∨ i = .wrest ∨ i = .rxbit ∨ i = .flatch ∨
      i = .ucmp ∨ i = .urec ∨ i = .reset := by
  cases i with
  | irqSck => exact fun _ => .inr (.inl ⟨.sck, rfl⟩)
  | irqCs => exact fun _ => .inr (.inl ⟨.cs, rfl⟩)
  | irqTov => exact fun _ => .inr (.inl ⟨.tov, rfl⟩)
  | start | wcli | wrest | rxbit | flatch | ucmp | urec | reset => simp
  | _ => simp [effect]

theorem pfSck_writers : (effect i s).pfSck ≠ s.pfSck → (∃ l : Level, i = .sck l) ∨ i = .irqSck ∨ i = .reset := by
  cases i with
  | sck | irqSck | reset => simp
  | _ => simp [effect]

theorem pfCs_writers : (effect i s).pfCs ≠ s.pfCs → (∃ l : Level, i = .csn l) ∨ i = .irqCs ∨ i = .reset := by
  cases i with
  | csn | irqCs | reset => simp
  | _ => simp [effect]

theorem pfTov_writers : (effect i s).pfTov ≠ s.pfTov → i = .tov ∨ i = .irqTov ∨ i = .reset := by
  cases i with
  | tov | irqTov | reset => simp
  | _ => simp [effect]

theorem pending_writers (x : Source) : pending x (effect i s) ≠ pending x s →
    (x = .sck ∧ ∃ l : Level, i = .sck l) ∨ (x = .cs ∧ ∃ l : Level, i = .csn l) ∨ (x = .tov ∧ i = .tov) ∨
      i = x.instr ∨ i = .reset := by
  intro h
  cases x with
  | sck => simpa [Source.instr] using pfSck_writers i s h
  | cs => simpa [Source.instr] using pfCs_writers i s h
  | tov => simpa [Source.instr] using pfTov_writers i s h

theorem started_writers : (effect i s).started ≠ s.started → i = .start ∨ i = .reset := by
  cases i with
  | start | reset => simp
  | _ => simp [effect]

theorem sdi_writers : (effect i s).sdi ≠ s.sdi → ∃ l : Level, i = .sdi l := by
  cases i with
  | sdi => simp
  | _ => simp [effect]

theorem sck_writers : (effect i s).sck ≠ s.sck → ∃ l : Level, i = .sck l := by
  cases i with
  | sck => simp
  | _ => simp [effect]

theorem csN_writers : (effect i s).csN ≠ s.csN → ∃ l : Level, i = .csn l := by
  cases i with
  | csn => simp
  | _ => simp [effect]

theorem pinRead_writers (p : Pin) : pinRead p (effect i s) ≠ pinRead p s →
    ∃ l : Level, (p = .sdi ∧ i = .sdi l) ∨ (p = .sck ∧ i = .sck l) ∨ (p = .csN ∧ i = .csn l) := by
  intro h
  cases p with
  | sdi => simpa using sdi_writers i s h
  | sck => simpa using sck_writers i s h
  | csN => simpa using csN_writers i s h

/-- `env_keeps_ctx` the other way round: what changes `ctx` is the block's or is RESET. -/
theorem ctx_writers : (effect i s).ctx ≠ s.ctx → i.agent = .blk ∨ i = .reset := by
  cases i with
  | start | sdi | sck | csn | tov => simp [effect]
  | reset => simp
  | _ => simp [Instr.agent]

end

/-- Settles O43: the table of 10_state.md R26, row by row. -/
theorem fieldsChangeByTheirWritersOnly : Obligations.FieldsChangeByTheirWritersOnly := by
  intro i s u hexec
  obtain ⟨-, rfl⟩ := (exec_next_iff i s u).mp hexec
  exact ⟨receive_writers i s, bits_writers i s, value_writers i s, oldValue_writers i s, t_writers i s, sv_writers i s,
    memRead_writers i s, gie_writers i s, pending_writers i s, started_writers i s, pinRead_writers i s, ctx_writers i s,
    effect_frame i s⟩

/-! ### The compare register is not read -/

/-- The state with both cells of `OCR` erased: what is left is all that an operation can depend on. -/
def eraseCells (s : State) : State := { s with ocrh := 0, ocrl := 0 }

section
variable (s : State)

/-- Erasing the cells erases whatever was in them. -/
theorem eraseCells_setCells (h l : Byte) : eraseCells { s with ocrh := h, ocrl := l } = eraseCells s := rfl

theorem enabled_eraseCells (i : Instr) : enabled i (eraseCells s) = enabled i s := by cases i <;> rfl

/-- The branch of a dispatch is on `NESTING`. -/
theorem takeInterrupt_eraseCells (x : Source) : takeInterrupt x (eraseCells s) = eraseCells (takeInterrupt x s) := by
  simp only [takeInterrupt]
  rw [apply_ite eraseCells]
  cases x <;> rfl

/-- The branch of RXBIT is on `CS_N` and `bits`. -/
theorem receiveBit_eraseCells : receiveBit (eraseCells s) = eraseCells (receiveBit s) := by
  unfold receiveBit
  rw [apply_ite eraseCells]
  rfl

/-- The branches of FLATCH are on `bits` and `RESET_ON_DISCARD`. -/
theorem latchFrame_eraseCells : latchFrame (eraseCells s) = eraseCells (latchFrame s) := by
  unfold latchFrame
  rw [apply_ite eraseCells, apply_ite eraseCells]
  rfl

/-- The branch of UCMP is on `value` and `old_value`, not on `OCR`. -/
theorem compareValue_eraseCells : compareValue (eraseCells s) = eraseCells (compareValue s) := by
  simp only [compareValue]
  rw [apply_ite eraseCells]
  rfl

/-- No effect depends on the cells, but for the cells. -/
theorem effect_eraseCells (i : Instr) : eraseCells (effect i (eraseCells s)) = eraseCells (effect i s) := by
  cases i with
  | irqSck => exact (congrArg eraseCells (takeInterrupt_eraseCells s .sck) :)
  | irqCs => exact (congrArg eraseCells (takeInterrupt_eraseCells s .cs) :)
  | irqTov => exact (congrArg eraseCells (takeInterrupt_eraseCells s .tov) :)
  | rxbit => exact (congrArg (eraseCells ∘ handlerReturn) (receiveBit_eraseCells s) :)
  | flatch => exact (congrArg (eraseCells ∘ handlerReturn) (latchFrame_eraseCells s) :)
  | ucmp => exact (congrArg eraseCells (compareValue_eraseCells s) :)
  | _ => rfl

/-- The outcome of an operation, the cells erased after it, is the same when they are erased before it too. -/
theorem mapNext_eraseCells_exec (i : Instr) : mapNext eraseCells (exec i (eraseCells s)) = mapNext eraseCells (exec i s) := by
  rw [exec_eq_guarded, exec_eq_guarded]
  unfold guarded
  rw [enabled_eraseCells]
  split
  · exact congrArg Host.Outcome.next (effect_eraseCells s i)
  · rfl

end

/-- Settles O44: both outcomes are the one with the cells erased first. -/
theorem noOperationReadsTheCompareRegister : Obligations.NoOperationReadsTheCompareRegister := by
  intro i s h l
  calc mapNext eraseCells (exec i { s with ocrh := h, ocrl := l })
      = mapNext eraseCells (exec i (eraseCells { s with ocrh := h, ocrl := l })) := (mapNext_eraseCells_exec _ i).symm
    _ = mapNext eraseCells (exec i (eraseCells s)) := by rw [eraseCells_setCells]
    _ = mapNext eraseCells (exec i s) := mapNext_eraseCells_exec s i

end Sys2Proof.Machine
end

section
/-! `value` is never torn: only RESET and a FLATCH that finds 16 bits write it, so along a run it is the value at the start, the
reset value or a word of `wordsLatched` (20_memory.md R50, 43_output_updater.md R126). -/

namespace Sys2Proof.Machine

/-- The words a run latches are the one its first operation latches, if any, and those the rest of the run latches. -/
theorem mem_wordsLatched_cons {i : Instr} {s t : State} (h : exec i s = .next t) (is : List Instr) (w : Word) :
    w ∈ wordsLatched (i :: is) s ↔
      (i = .flatch ∧ s.bits = fullCount ∧ w = s.receive) ∨ w ∈ wordsLatched is t := by
  simp only [wordsLatched, h, List.mem_append]
  split <;> simp_all

/-- What each writer of `value` writes: FLATCH all 16 bits of the accumulator, and only when it finds 16; RESET the reset
value (42_frame_latch.md R110, 70_reset_and_hazards.md R190). -/
theorem value_of_exec {i : Instr} {s u : State} (h : exec i s = .next u) :
    u.value = s.value ∨ u.value = 0 ∨ (i = .flatch ∧ s.bits = fullCount ∧ u.value = s.receive) := by
  obtain ⟨-, rfl⟩ := (exec_next_iff i s u).mp h
  by_cases hsame : (effect i s).value = s.value
  · exact .inl hsame
  obtain rfl | rfl := value_writers i s hsame
  · have hvalue : (effect .flatch s).value = if s.bits = fullCount then s.receive else s.value := latchFrame_value s
    by_cases hfull : s.bits = fullCount
    · exact .inr (.inr ⟨rfl, hfull, hvalue.trans (if_pos hfull)⟩)
    · exact absurd (hvalue.trans (if_neg hfull)) hsame
  · exact .inr (.inl (resetEffect_value s))

/-- From any state: `value` after a run is `value` before it, the reset value, or a word the run latched. -/
theorem value_of_runOps {is : List Instr} {s u : State} (h : runOps is s = some u) :
    u.value = s.value ∨ u.value = 0 ∨ u.value ∈ wordsLatched is s := by
  induction is generalizing s with
  | nil =>
    obtain rfl : s = u := Option.some.inj h
    exact .inl rfl
  | cons i is ih =>
    obtain ⟨t, hexec, hrest⟩ := (runOps_cons i is s u).mp h
    rw [mem_wordsLatched_cons hexec]
    obtain hkept | hzero | hlatched := ih hrest
    · rw [hkept]
      exact (value_of_exec hexec).imp_right (.imp_right .inl)
    · exact .inr (.inl hzero)
    · exact .inr (.inr (.inr hlatched))

/-- Settles O51: `value` at power-on is the reset value. -/
theorem valueIsTheResetValueOrALatchedFrame : Obligations.ValueIsTheResetValueOrALatchedFrame := by
  intro cfg is u hrun
  obtain hpowerOn | hvalue := value_of_runOps hrun
  · exact .inl hpowerOn
  · exact hvalue

end Sys2Proof.Machine
end

section
/-! Operation codes: the decoder and the encoder are inverse to each other (30_encoding.md R64 to R66), so the codes that decode
are the codes of `allInstrs`, and every other code is in a reserved range (R67); whole traces of codes (R67, R68, R71). -/

namespace Sys2Proof.Machine

theorem mem_allInstrs (i : Instr) : i ∈ allInstrs := by
  cases i with
  | sdi l | sck l | csn l => cases l <;> decide
  | _ => decide

/-! ### One code -/

/-- The code of every operation decodes to it; the operations are listed in `allInstrs`. -/
@[simp] theorem decode_encode (i : Instr) : decode (encode i) = some i := by
  have hall : ∀ j ∈ allInstrs, decode (encode j) = some j := by decide
  exact hall i (mem_allInstrs i)

/-- A code is the bits a mask keeps and the bits it removes. -/
theorem masked_or_unmasked (c m : Byte) : (c &&& m) ||| (c &&& ~~~m) = c := by
  rw [← BitVec.and_or_distrib_left, BitVec.or_not_self, BitVec.and_allOnes]

/-- Format L: the fixed part and the level operand together are the whole code (30_encoding.md R64, R65). -/
theorem formatL_levelOperand {c fixed : Byte} (h : c &&& 0xFE = fixed) : formatL fixed (levelOperand c) = c := by
  have hbit : BitVec.zeroExtend 8 (BitVec.ofBool (levelOperand c)) = c &&& ~~~0xFE :=
    (BitVec.and_one_eq_setWidth_ofBool_getLsbD (x := c)).symm
  rw [← h, formatL, hbit, masked_or_unmasked]

/-- The source number is the low part of the code of the IRQ (30_encoding.md R65). -/
theorem encode_instr_of_sourceOfNumber {n : Nat} {x : Source} (h : sourceOfNumber n = some x) :
    encode x.instr = 0x80 ||| BitVec.ofNat 8 n := by
  unfold sourceOfNumber at h
  split at h <;> cases h <;> rfl

/-- The number of a micro-operation is the low nibble of its code (10_state.md R23). -/
theorem encode_instr_of_microOfNumber {n : Nat} {m : Micro} (h : microOfNumber n = some m) :
    encode m.instr = 0x90 ||| BitVec.ofNat 8 n := by
  unfold microOfNumber at h
  split at h <;> cases h <;> rfl

/-- No two codes decode to one operation: each test of the decoder fixes every bit of the code that the operation does not
carry as its operand. -/
theorem encode_of_decode {c : Byte} {i : Instr} (h : decode c = some i) : encode i = c := by
  unfold decode at h
  split_ifs at h with hreset hstart hsdi hsck hcsn htov hirq hmicro
  · cases h; exact hreset.symm
  · cases h; exact hstart.symm
  · cases h; exact formatL_levelOperand hsdi
  · cases h; exact formatL_levelOperand hsck
  · cases h; exact formatL_levelOperand hcsn
  · cases h; exact htov.symm
  · obtain ⟨x, hx, rfl⟩ := Option.map_eq_some_iff.mp h
    rw [encode_instr_of_sourceOfNumber hx, BitVec.ofNat_toNat, BitVec.setWidth_eq, ← hirq]
    exact masked_or_unmasked c 0xFC
  · obtain ⟨m, hm, rfl⟩ := Option.map_eq_some_iff.mp h
    rw [encode_instr_of_microOfNumber hm, BitVec.ofNat_toNat, BitVec.setWidth_eq, ← hmicro]
    exact masked_or_unmasked c 0xF0

theorem decode_eq_some_iff (c : Byte) (i : Instr) : decode c = some i ↔ encode i = c :=
  ⟨encode_of_decode, fun h => h ▸ decode_encode i⟩

/-! ### The reserved codes -/

theorem not_reserved_encode (i : Instr) : ¬ ReservedBySpec (encode i).toNat := by
  have hall : ∀ j ∈ allInstrs, ¬ ReservedBySpec (encode j).toNat := by unfold ReservedBySpec; decide
  exact hall i (mem_allInstrs i)

/-- Outside the reserved ranges there are 21 numbers below 256 left, and they are the codes of `allInstrs`. -/
theorem exists_encode_of_not_reserved {c : Byte} (h : ¬ ReservedBySpec c.toNat) : ∃ i : Instr, encode i = c := by
  have hcodes : allInstrs.map (fun i => (encode i).toNat) =
      [0x00, 0x01, 0x10, 0x11, 0x20, 0x21, 0x30, 0x31, 0x40, 0x80, 0x81, 0x82,
       0x90, 0x91, 0x92, 0x93, 0x94, 0x95, 0x96, 0x97, 0x98] := by decide
  have hmem : c.toNat ∈ allInstrs.map (fun i => (encode i).toNat) := by
    have hlt := c.isLt
    simp only [hcodes, List.mem_cons, List.not_mem_nil, or_false]
    unfold ReservedBySpec at h
    omega
  obtain ⟨i, -, hi⟩ := List.mem_map.mp hmem
  exact ⟨i, BitVec.eq_of_toNat_eq hi⟩

/-- A code decodes to nothing exactly when it is the code of no operation, that is when it is reserved. -/
theorem decode_eq_none_iff (c : Byte) : decode c = none ↔ ReservedBySpec c.toNat := by
  constructor
  · intro hnone
    by_contra hgood
    obtain ⟨i, rfl⟩ := exists_encode_of_not_reserved hgood
    exact absurd hnone (by simp)
  · intro hreserved
    rw [Option.eq_none_iff_forall_ne_some]
    intro i hi
    exact not_reserved_encode i (encode_of_decode hi ▸ hreserved)

/-! ### Whole traces -/

theorem decodeTraceFrom_map_encode (pos : Nat) (is : List Instr) : decodeTraceFrom pos (is.map encode) = .ok is := by
  induction is generalizing pos with
  | nil => rfl
  | cons i is ih => simp only [List.map_cons, decodeTraceFrom, decode_encode, ih]

/-- A reserved code after good ones is named with the number of codes before it. -/
theorem decodeTraceFrom_reserved {c : Byte} (hc : decode c = none) (pos : Nat) (is : List Instr) (rest : List Byte) :
    decodeTraceFrom pos (is.map encode ++ c :: rest) = .reservedAt (pos + is.length) c := by
  induction is generalizing pos with
  | nil => simp only [List.map_nil, List.nil_append, decodeTraceFrom, hc, List.length_nil, Nat.add_zero]
  | cons i is ih =>
    simp only [List.map_cons, List.cons_append, decodeTraceFrom, decode_encode, ih, List.length_cons]
    congr 1
    omega

/-- The codes that decode to a list of operations are the codes of that list, at every position. -/
theorem map_encode_of_decodeTraceFrom {pos : Nat} {cs : List Byte} {is : List Instr}
    (h : decodeTraceFrom pos cs = .ok is) : is.map encode = cs := by
  induction cs generalizing pos is with
  | nil => cases h; rfl
  | cons c cs ih =>
    simp only [decodeTraceFrom] at h
    split at h
    · cases h
    · next i hi =>
      split at h
      · next js hjs => cases h; rw [List.map_cons, encode_of_decode hi, ih hjs]
      · cases h

theorem decodeTrace_eq_ok_iff (cs : List Byte) (is : List Instr) : decodeTrace cs = .ok is ↔ is.map encode = cs :=
  ⟨map_encode_of_decodeTraceFrom, fun h => h ▸ decodeTraceFrom_map_encode 0 is⟩

/-! ### The statements -/

/-- Settles O4: by induction on the operations before the end, or before the reserved code. -/
theorem wholeTraceDecodesOrNamesTheFirstReservedPosition :
    Obligations.WholeTraceDecodesOrNamesTheFirstReservedPosition := by
  refine ⟨decodeTraceFrom_map_encode 0, fun is c rest hreserved => ?_⟩
  have hnamed := decodeTraceFrom_reserved ((decode_eq_none_iff c).mpr hreserved) 0 is rest
  rwa [Nat.zero_add] at hnamed

/-- Settles O1: the two directions of `decode_eq_some_iff`. -/
theorem encodedOperationDecodesToItself : Obligations.EncodedOperationDecodesToItself :=
  ⟨fun i _ => decode_encode i, fun _ _ => encode_of_decode⟩

/-- Settles O3: each word is the code of its operation, so it decodes to it. -/
theorem sampleCodesDecodeAsTheMapSays : Obligations.SampleCodesDecodeAsTheMapSays := by
  unfold Obligations.SampleCodesDecodeAsTheMapSays
  simp only [decode_eq_some_iff]
  decide

end Sys2Proof.Machine
end

section
/-! The textual form of a trace (30_encoding.md R69). What is written for one operation is read on its own: a text that holds the
operation and ends with a separator adds that operation in front of what the rest of the text reads as (`ReadsAs`). -/

namespace Sys2Proof.Machine

/-! ### The text of one operation -/

/-- The words of an operation's text name it and no operation listed before it. -/
theorem parseWords_instrText (i : Instr) : parseWords (splitWords [] (instrText i)) = some i := by
  have hall : ∀ j ∈ allInstrs, parseWords (splitWords [] (instrText j)) = some j := by decide
  exact hall i (mem_allInstrs i)

/-- A character that neither separates operations nor opens a comment. -/
def plain (c : Char) : Bool := !isSeparator c && c != '#'

theorem plain_iff (c : Char) : plain c = true ↔ isSeparator c = false ∧ c ≠ '#' := by
  simp [plain]

theorem plain_of_mem_instrText {i : Instr} {c : Char} (h : c ∈ instrText i) : plain c = true := by
  have hall : ∀ j ∈ allInstrs, (instrText j).all plain = true := by decide
  exact List.all_eq_true.mp (hall i (mem_allInstrs i)) c h

theorem isSeparator_iff (c : Char) : isSeparator c = true ↔ c = '\n' ∨ c = ';' := by
  simp [isSeparator]

/-! ### Comments -/

/-- Plain text is kept. -/
theorem stripComments_append {p : List Char} (hp : ∀ c ∈ p, plain c = true) (rest : List Char) :
    stripComments false (p ++ rest) = p ++ stripComments false rest := by
  induction p with
  | nil => rfl
  | cons c p ih =>
    obtain ⟨hc, hp⟩ := List.forall_mem_cons.mp hp
    obtain ⟨hsep, hhash⟩ := (plain_iff c).mp hc
    have hline : c ≠ '\n' := by rintro rfl; cases hsep
    simp [stripComments, hline, hhash, ih hp]

/-- A separator outside a comment is kept. -/
theorem stripComments_separator {c : Char} (hc : isSeparator c = true) (rest : List Char) :
    stripComments false (c :: rest) = c :: stripComments false rest := by
  obtain rfl | rfl := (isSeparator_iff c).mp hc <;> simp [stripComments]

/-- A comment that has begun is removed, up to the end of its line. -/
theorem stripComments_comment {p : List Char} (hp : '\n' ∉ p) (rest : List Char) :
    stripComments true (p ++ '\n' :: rest) = '\n' :: stripComments false rest := by
  induction p with
  | nil => simp [stripComments]
  | cons c p ih =>
    obtain ⟨hc, hp⟩ := not_or.mp (List.mem_cons.not.mp hp)
    simp [stripComments, Ne.symm hc, ih hp]

/-! ### Pieces and words -/

/-- A piece ends at the first separator. -/
theorem splitPieces_append {p : List Char} (hp : ∀ c ∈ p, plain c = true) {sep : Char}
    (hsep : isSeparator sep = true) (acc rest : List Char) :
    splitPieces acc (p ++ sep :: rest) = (acc.reverse ++ p) :: splitPieces [] rest := by
  induction p generalizing acc with
  | nil => simp [splitPieces, hsep]
  | cons c p ih =>
    obtain ⟨hc, hp⟩ := List.forall_mem_cons.mp hp
    obtain ⟨hsep, -⟩ := (plain_iff c).mp hc
    simp [splitPieces, hsep, ih hp]

/-- A blank at the end of a piece adds no word to it. -/
theorem splitWords_append_blank {b : Char} (hb : isBlank b = true) (acc p : List Char) :
    splitWords acc (p ++ [b]) = splitWords acc p := by
  induction p generalizing acc with
  | nil => simp [splitWords, hb]
  | cons c p ih => simp only [List.cons_append, splitWords, ih]

/-- A piece whose words name an operation is read as that operation: it is not one of the pieces with no word, which are
skipped. -/
theorem parsePieces_cons {p : List Char} {i : Instr} (h : parseWords (splitWords [] p) = some i)
    (ps : List (List Char)) : parsePieces (p :: ps) = (parsePieces ps).map (i :: ·) := by
  have hnone : parseWords [] = none := by decide
  cases hwords : splitWords [] p with
  | nil => rw [hwords, hnone] at h; cases h
  | cons w ws =>
    rw [hwords] at h
    simp [parsePieces, hwords, h]

/-! ### The text of a trace -/

/-- A text reads as one operation, whatever text follows it. -/
def ReadsAs (text : List Char) (i : Instr) : Prop :=
  ∀ rest : List Char, parseTrace (text ++ rest) = (parseTrace rest).map (i :: ·)

/-- When removing its comments leaves a text as a piece naming an operation and a separator, it reads as that operation. -/
theorem readsAs_of_stripComments {text p : List Char} {sep : Char} {i : Instr}
    (hstrip : ∀ rest, stripComments false (text ++ rest) = p ++ sep :: stripComments false rest)
    (hp : ∀ c ∈ p, plain c = true) (hsep : isSeparator sep = true)
    (hwords : splitWords [] p = splitWords [] (instrText i)) : ReadsAs text i := by
  intro rest
  have hnamed : parseWords (splitWords [] p) = some i := by rw [hwords, parseWords_instrText]
  rw [parseTrace, hstrip, splitPieces_append hp hsep, List.reverse_nil, List.nil_append, parsePieces_cons hnamed, parseTrace]

/-- An operation and a separator. -/
theorem readsAs_separator (i : Instr) {sep : Char} (hsep : isSeparator sep = true) : ReadsAs (instrText i ++ [sep]) i := by
  refine readsAs_of_stripComments (p := instrText i) (fun rest => ?_) (fun _ => plain_of_mem_instrText) hsep rfl
  rw [List.append_assoc, stripComments_append (fun _ => plain_of_mem_instrText), List.singleton_append,
    stripComments_separator hsep]

/-- An operation and a comment to the end of the line: the blank before the comment stays, at the end of the piece. -/
theorem readsAs_comment (i : Instr) {comment : List Char} (hcomment : '\n' ∉ comment) :
    ReadsAs (instrText i ++ ' ' :: '#' :: comment ++ ['\n']) i := by
  have hplain : ∀ c ∈ instrText i ++ [' '], plain c = true :=
    List.forall_mem_append.mpr ⟨fun _ => plain_of_mem_instrText, List.forall_mem_singleton.mpr rfl⟩
  refine readsAs_of_stripComments (p := instrText i ++ [' ']) (sep := '\n') (fun rest => ?_) hplain rfl
    (splitWords_append_blank rfl [] (instrText i))
  calc stripComments false (instrText i ++ ' ' :: '#' :: comment ++ ['\n'] ++ rest)
      = stripComments false ((instrText i ++ [' ']) ++ '#' :: (comment ++ '\n' :: rest)) := by simp
    _ = (instrText i ++ [' ']) ++ stripComments false ('#' :: (comment ++ '\n' :: rest)) := stripComments_append hplain _
    _ = (instrText i ++ [' ']) ++ stripComments true (comment ++ '\n' :: rest) := by simp [stripComments]
    _ = (instrText i ++ [' ']) ++ '\n' :: stripComments false rest := by rw [stripComments_comment hcomment]

/-- Texts that read as one operation each, one after the other, read as those operations. -/
theorem parseTrace_flatMap {α : Type} {text : α → List Char} {op : α → Instr} {ps : List α}
    (h : ∀ p ∈ ps, ReadsAs (text p) (op p)) : parseTrace (ps.flatMap text) = some (ps.map op) := by
  induction ps with
  | nil => rfl
  | cons p ps ih =>
    obtain ⟨hp, hps⟩ := List.forall_mem_cons.mp h
    rw [List.flatMap_cons, hp, ih hps, List.map_cons, Option.map_some]

theorem renderTrace_eq_flatMap (is : List Instr) : renderTrace is = is.flatMap fun i => instrText i ++ ['\n'] := by
  induction is with
  | nil => rfl
  | cons i is ih => simp [renderTrace, ih]

/-- Settles O5: in each of the three forms every operation is written as a text that reads as it. -/
theorem textOfATraceReadsBack : Obligations.TextOfATraceReadsBack := by
  refine ⟨fun is => ?_, fun ps hsep => ?_, fun ps hcomment => ?_⟩
  · rw [renderTrace_eq_flatMap, parseTrace_flatMap (op := id) (fun i _ => readsAs_separator i (by decide)), List.map_id]
  · exact parseTrace_flatMap fun p hp => readsAs_separator p.1 ((isSeparator_iff p.2).mpr (hsep p hp))
  · exact parseTrace_flatMap fun p hp => readsAs_comment p.1 (hcomment p hp)

end Sys2Proof.Machine
end

section
/-! What a step does with a code: the enabling conditions in the words of 30_encoding.md R68 and 60_exceptions.md R156, the outcome
of an operation and of a step by cases, valid traces as runs of the machine, and the placing of an operation (log 10). -/

namespace Sys2Proof.Machine

/-! ### The enabling conditions as the spec lists them -/

/-- What stands before `x` in a list is what has a smaller index. -/
theorem mem_takeWhile_ne_iff {α : Type} [DecidableEq α] (l : List α) (x y : α) :
    y ∈ l.takeWhile (· != x) ↔ l.idxOf y < l.idxOf x := by
  induction l with
  | nil => simp
  | cons a l ih =>
    by_cases hx : a = x
    · simp [hx]
    · by_cases hy : a = y
      · subst hy
        simp [hx, List.idxOf_cons_ne]
      · simp [hx, hy, Ne.symm hy, ih, List.idxOf_cons_ne]

theorem mem_earlierSources_iff (p : Prio) (x y : Source) : y ∈ earlierSources p x ↔ ComesBefore p y x := by
  unfold earlierSources ComesBefore
  split_ifs with hany
  · simp [hany]
  · simp [hany, mem_takeWhile_ne_iff]

theorem waiting_iff (x : Source) (s : State) : waiting x s = true ↔ PendingAndNotRunning x s := by
  simp only [waiting, PendingAndNotRunning, Bool.and_eq_true, Bool.not_eq_true', hasFrame_eq_false_iff]

/-- Condition (e) of 60_exceptions.md R156. -/
theorem prioAllows_iff (x : Source) (s : State) :
    prioAllows x s = true ↔ ∀ y : Source, ComesBefore s.cfg.prio y x → ¬ PendingAndNotRunning y s := by
  simp only [prioAllows, List.all_eq_true, mem_earlierSources_iff, ← waiting_iff, Bool.not_eq_true', Bool.not_eq_true]

theorem irqEnabled_iff (x : Source) (s : State) : irqEnabled x s = true ↔ IrqEnabledBySpec x s := by
  simp only [irqEnabled, IrqEnabledBySpec, Bool.and_eq_true, dispatchable_iff, prioAllows_iff, PendingAndNotRunning,
    and_assoc]

theorem enabled_iff (i : Instr) (s : State) : enabled i s = true ↔ EnabledBySpec i s := by
  cases i with
  | reset | sdi | sck | csn | tov => exact iff_of_true rfl trivial
  | start => simp [enabled, EnabledBySpec]
  | irqSck => exact irqEnabled_iff .sck s
  | irqCs => exact irqEnabled_iff .cs s
  | irqTov => exact irqEnabled_iff .tov s
  | _ => exact atTop_iff _ s

/-! ### The outcome of an operation -/

theorem exec_of_enabled {i : Instr} {s : State} (h : enabled i s = true) : exec i s = .next (effect i s) :=
  (exec_next_iff i s _).mpr ⟨h, rfl⟩

theorem exec_of_not_enabled {i : Instr} {s : State} (h : enabled i s = false) :
    exec i s = .refused (.notEnabled s.pos i) := by
  rw [exec_eq_guarded, guarded_refused]
  exact ⟨h, rfl⟩

/-- An operation leaves the trace and its position; only the step moves on in it. -/
theorem consume_of_exec {i : Instr} {s u : State} (h : exec i s = .next u) :
    consume u = { u with trace := s.trace.tail, pos := s.pos + 1 } := by
  obtain ⟨-, rfl⟩ := (exec_next_iff i s u).mp h
  obtain ⟨-, htrace, hpos⟩ := effect_frame i s
  rw [consume, htrace, hpos]

/-! ### The outcome of a step -/

section
variable {s : State} {c : Byte} {rest : List Byte} {i : Instr}

theorem step_of_decode_some (htrace : s.trace = c :: rest) (hc : decode c = some i) :
    step s = mapNext consume (exec i s) := by
  have hfetch : fetch s = .code i := (fetch_code s i).mpr ⟨c, rest, htrace, hc⟩
  simp only [step, hfetch]

theorem step_of_decode_none (htrace : s.trace = c :: rest) (hc : decode c = none) :
    step s = .refused (.reservedCode s.pos c) := by
  have hfetch : fetch s = .reserved c := by simp only [fetch, htrace, hc]
  simp only [step, hfetch]

theorem step_of_enabled (htrace : s.trace = c :: rest) (hc : decode c = some i) (hen : enabled i s = true) :
    step s = .next (consume (effect i s)) := by
  rw [step_of_decode_some htrace hc, exec_of_enabled hen, mapNext]

/-- With a code to run, all that a step can answer as a next state. -/
theorem step_next_iff_of_trace (htrace : s.trace = c :: rest) (u : State) :
    step s = .next u ↔ ∃ i, decode c = some i ∧ enabled i s = true ∧ consume (effect i s) = u := by
  cases hc : decode c with
  | none => simp [step_of_decode_none htrace hc]
  | some i => simp [step_of_decode_some htrace hc, exec_next_iff, and_assoc]

end

/-! ### The block's own next operation -/

/-- What stands before the first element that meets a test does not meet it. -/
theorem eq_false_of_mem_takeWhile_of_find? {α : Type} [DecidableEq α] {p : α → Bool} {l : List α} {x y : α}
    (hx : l.find? p = some x) (hy : y ∈ l.takeWhile (· != x)) : p y = false := by
  induction l with
  | nil => simp at hy
  | cons a l ih =>
    cases ha : p a with
    | true =>
      obtain rfl : a = x := by simpa [ha] using hx
      simp at hy
    | false =>
      have hxl : l.find? p = some x := by simpa [ha] using hx
      have hne : a ≠ x := by
        rintro rfl
        exact absurd (List.find?_some hxl) (by simp [ha])
      obtain rfl | hyl : y = a ∨ y ∈ l.takeWhile (· != x) := by simpa [hne] using hy
      · exact ha
      · exact ih hxl hyl

/-- The first dispatchable source in the order of `PRIO` has no earlier source waiting: an earlier one, waiting, would be
dispatchable too. -/
theorem irqEnabled_of_find? {x : Source} {s : State}
    (h : (prioOrder s.cfg.prio).find? (fun y => dispatchable y s) = some x) : irqEnabled x s = true := by
  have hd : dispatchable x s = true := List.find?_some (p := fun y => dispatchable y s) h
  obtain ⟨hstarted, hgie, -⟩ := (dispatchable_iff x s).mp hd
  have hprio : prioAllows x s = true := by
    rw [prioAllows_iff]
    rintro y ⟨-, hbefore⟩ ⟨hpending, hframe⟩
    have hdy : dispatchable y s = true := (dispatchable_iff y s).mpr ⟨hstarted, hgie, hpending, hframe⟩
    have hndy : dispatchable y s = false :=
      eq_false_of_mem_takeWhile_of_find? (p := fun z => dispatchable z s) h ((mem_takeWhile_ne_iff _ x y).mpr hbefore)
    exact absurd hdy (Bool.eq_false_iff.mp hndy)
  rw [irqEnabled, hd, hprio, Bool.and_self]

theorem enabled_sourceInstr (x : Source) (s : State) : enabled x.instr s = irqEnabled x s := by cases x <;> rfl

theorem enabled_microInstr (m : Micro) (s : State) : enabled m.instr s = atTop m s := by cases m <;> rfl

/-- The block chooses only among its enabled operations. -/
theorem enabled_of_blockChoice {i : Instr} {s : State} (h : blockChoice s = some i) : enabled i s = true := by
  unfold blockChoice at h
  split at h
  · next x hx =>
    cases h
    rw [enabled_sourceInstr, irqEnabled_of_find? hx]
  · obtain ⟨m, hm, rfl⟩ := Option.map_eq_some_iff.mp h
    rw [enabled_microInstr, atTop, hm, beq_self_eq_true]

/-- With no code to run a step always answers a next state (log 3). -/
theorem exists_step_next_of_trace_nil {s : State} (h : s.trace = []) : ∃ u : State, step s = .next u := by
  cases hchoice : blockChoice s with
  | none =>
    have hfetch : fetch s = .idle := by simp only [fetch, h, hchoice]
    exact ⟨s, by simp only [step, hfetch]⟩
  | some i =>
    have hfetch : fetch s = .own i := by simp only [fetch, h, hchoice]
    exact ⟨effect i s, by simp only [step, hfetch, exec_of_enabled (enabled_of_blockChoice hchoice)]⟩

/-! ### Valid traces -/

/-- The state with another trace, at another position in it. -/
def withTrace (cs : List Byte) (n : Nat) (s : State) : State := { s with trace := cs, pos := n }

section
variable (cs : List Byte) (n : Nat) (s : State)

theorem enabled_withTrace (i : Instr) : enabled i (withTrace cs n s) = enabled i s := by cases i <;> rfl

theorem takeInterrupt_withTrace (x : Source) : takeInterrupt x (withTrace cs n s) = withTrace cs n (takeInterrupt x s) := by
  simp only [takeInterrupt]
  rw [apply_ite (withTrace cs n)]
  cases x <;> rfl

theorem receiveBit_withTrace : receiveBit (withTrace cs n s) = withTrace cs n (receiveBit s) := by
  unfold receiveBit
  rw [apply_ite (withTrace cs n)]
  rfl

theorem latchFrame_withTrace : latchFrame (withTrace cs n s) = withTrace cs n (latchFrame s) := by
  unfold latchFrame
  rw [apply_ite (withTrace cs n), apply_ite (withTrace cs n)]
  rfl

theorem compareValue_withTrace : compareValue (withTrace cs n s) = withTrace cs n (compareValue s) := by
  simp only [compareValue]
  rw [apply_ite (withTrace cs n)]
  rfl

/-- No effect reads the trace or its position. -/
theorem effect_withTrace (i : Instr) : effect i (withTrace cs n s) = withTrace cs n (effect i s) := by
  cases i with
  | irqSck => exact takeInterrupt_withTrace cs n s .sck
  | irqCs => exact takeInterrupt_withTrace cs n s .cs
  | irqTov => exact takeInterrupt_withTrace cs n s .tov
  | rxbit => exact (congrArg handlerReturn (receiveBit_withTrace cs n s) :)
  | flatch => exact (congrArg handlerReturn (latchFrame_withTrace cs n s) :)
  | ucmp => exact compareValue_withTrace cs n s
  | _ => rfl

end

theorem validTrace_iff (cs : List Byte) (s : State) :
    validTrace cs s = true ↔ ∃ is u, is.map encode = cs ∧ runOps is s = some u := by
  unfold validTrace
  simp only [← decodeTrace_eq_ok_iff]
  cases hd : decodeTrace cs with
  | ok is => simp [Option.isSome_iff_exists]
  | reservedAt p c => simp

/-- The validity of a trace, one code at a time. -/
theorem validTrace_cons (c : Byte) (cs : List Byte) (s : State) :
    validTrace (c :: cs) s = true ↔
      ∃ i, decode c = some i ∧ enabled i s = true ∧ validTrace cs (effect i s) = true := by
  simp only [validTrace_iff, decode_eq_some_iff]
  constructor
  · rintro ⟨is, u, hcodes, hrun⟩
    obtain ⟨i, js, rfl, hi, hjs⟩ := List.map_eq_cons_iff.mp hcodes
    obtain ⟨t, hexec, hrest⟩ := (runOps_cons i js s u).mp hrun
    obtain ⟨hen, rfl⟩ := (exec_next_iff i s t).mp hexec
    exact ⟨i, hi, hen, js, u, hjs, hrest⟩
  · rintro ⟨i, rfl, hen, js, u, rfl, hrest⟩
    exact ⟨i :: js, u, rfl, (runOps_cons i js s u).mpr ⟨_, exec_of_enabled hen, hrest⟩⟩

theorem run_succ_next_iff (k : Nat) (s u : State) :
    Host.Core.run Sys2Proof.core (k + 1) s = .next u ↔
      ∃ t, step s = .next t ∧ Host.Core.run Sys2Proof.core k t = .next u := by
  constructor
  · intro h
    simp only [Host.Core.run] at h
    split at h
    · next t ht => exact ⟨t, ht, h⟩
    · cases h
    · cases h
  · rintro ⟨t, ht, h⟩
    have hstep : Sys2Proof.core.step s = .next t := ht
    simp only [Host.Core.run, hstep, h]

/-- A trace is valid from a state exactly when the machine, loaded with it at any position, runs all its codes. -/
theorem validTrace_iff_run (cs : List Byte) (n : Nat) (s : State) :
    validTrace cs s = true ↔ ∃ u : State, Host.Core.run Sys2Proof.core cs.length (withTrace cs n s) = .next u := by
  induction cs generalizing n s with
  | nil => exact iff_of_true rfl ⟨_, rfl⟩
  | cons c cs ih =>
    have hconsume : ∀ i, consume (effect i (withTrace (c :: cs) n s)) = withTrace cs (n + 1) (effect i s) := fun i => by
      rw [effect_withTrace]; rfl
    simp only [validTrace_cons, List.length_cons, run_succ_next_iff,
      step_next_iff_of_trace (s := withTrace (c :: cs) n s) rfl, enabled_withTrace, hconsume, ih (n + 1)]
    constructor
    · rintro ⟨i, hi, hen, u, hrun⟩
      exact ⟨u, _, ⟨i, hi, hen, rfl⟩, hrun⟩
    · rintro ⟨u, _, ⟨i, hi, hen, rfl⟩, hrun⟩
      exact ⟨i, hi, hen, u, hrun⟩

/-! ### Placing an operation -/

theorem tableByte_toNat (c : Byte) : tableByte 8 c.toNat = c := by
  rw [tableByte, Nat.mod_eq_of_lt c.isLt, BitVec.ofNat_toNat, BitVec.setWidth_eq]

theorem withFetchWord_encode (s : State) (i : Instr) :
    State.withFetchWord s 8 (encode i).toNat = arrange i (storeCode (encode i) s) := by
  simp only [State.withFetchWord, placeCode, tableByte_toNat, decode_encode]

theorem handler_ne_of_mem_otherFrames {x : Source} {ctx : List Micro} : ∀ m ∈ otherFrames x ctx, m.handler ≠ x := by
  simp [otherFrames]

/-- The arranged source is the only one pending. -/
theorem pending_arrangeIrq (x y : Source) (s : State) : pending y (arrangeIrq x s) = decide (y = x) := by
  cases x <;> cases y <;> rfl

theorem irqEnabled_arrangeIrq (x : Source) (s : State) : irqEnabled x (arrangeIrq x s) = true := by
  have hcontext : ∀ m ∈ (arrangeIrq x s).ctx, m.handler ≠ x := by
    rw [arrangeIrq, writePending_ctx]
    exact handler_ne_of_mem_otherFrames
  rw [irqEnabled_iff]
  refine ⟨by simp [arrangeIrq], by simp [arrangeIrq], ⟨by simp [pending_arrangeIrq], hcontext⟩, ?_⟩
  rintro y ⟨-, hbefore⟩ ⟨hpending, -⟩
  obtain rfl : y = x := by simpa [pending_arrangeIrq] using hpending
  exact absurd hbefore (lt_irrefl _)

theorem atTop_arrangeMicro (m : Micro) (s : State) : atTop m (arrangeMicro m s) = true := by
  rw [atTop_iff]
  exact ⟨_, arrangeMicro_ctx m s⟩

/-- The arranged operation is enabled. -/
theorem enabled_arrange (i : Instr) (s : State) : enabled i (arrange i s) = true := by
  unfold arrange
  split_ifs with hen
  · exact hen
  · cases i with
    | reset | start | sdi | sck | csn | tov => rfl
    | irqSck => exact irqEnabled_arrangeIrq .sck s
    | irqCs => exact irqEnabled_arrangeIrq .cs s
    | irqTov => exact irqEnabled_arrangeIrq .tov s
    | _ => exact atTop_arrangeMicro _ s

/-- Arranging leaves the trace and its position. -/
theorem arrange_frame (i : Instr) (s : State) : (arrange i s).trace = s.trace ∧ (arrange i s).pos = s.pos := by
  unfold arrange
  split_ifs
  · exact ⟨rfl, rfl⟩
  · cases i <;> exact ⟨rfl, rfl⟩

/-! ### The statements -/

/-- Settles O2: the decoder refuses the reserved codes, and the step refuses what the decoder refuses. -/
theorem reservedCodesAreRefusedWithTheirPosition : Obligations.ReservedCodesAreRefusedWithTheirPosition := by
  refine ⟨decode_eq_none_iff, fun s c rest htrace hreserved => ?_⟩
  exact step_of_decode_none htrace ((decode_eq_none_iff c).mpr hreserved)

/-- Settles O8: with no code to run a step never stops; with one it answers a next state exactly when the code decodes to an
enabled operation. -/
theorem stepStopsExactlyOnAnInvalidTrace : Obligations.StepStopsExactlyOnAnInvalidTrace := by
  intro s
  simp only [← enabled_iff]
  constructor
  · intro hstop
    cases htrace : s.trace with
    | nil => exact absurd (exists_step_next_of_trace_nil htrace) hstop
    | cons c rest =>
      refine ⟨c, rest, rfl, ?_⟩
      cases hc : decode c with
      | none => exact .inl rfl
      | some i => exact .inr ⟨i, rfl, fun hen => hstop ⟨_, step_of_enabled htrace hc hen⟩⟩
  · rintro ⟨c, rest, htrace, hinvalid⟩ ⟨u, hstep⟩
    obtain ⟨i, hi, hen, -⟩ := (step_next_iff_of_trace htrace u).mp hstep
    obtain hnone | ⟨j, hj, hnot⟩ := hinvalid
    · exact absurd (hnone.symm.trans hi) (by simp)
    · obtain rfl : j = i := Option.some.inj (hj.symm.trans hi)
      exact hnot hen

/-- Settles O9: the enabling conditions of the model are those of the spec (`enabled_iff`). -/
theorem operationRunsExactlyWhenEnabled : Obligations.OperationRunsExactlyWhenEnabled := by
  intro i s
  rw [← enabled_iff]
  exact ⟨fun hen => ⟨_, exec_of_enabled hen⟩, fun hen => exec_of_not_enabled (Bool.eq_false_iff.mpr hen)⟩

/-- Settles O10: loading the codes at the position the state is at. -/
theorem validTraceIsARunOfTheMachine : Obligations.ValidTraceIsARunOfTheMachine := by
  intro cs s
  exact validTrace_iff_run cs s.pos s

/-- Settles O11: the placed operation is arranged to be enabled, and its code is the next one. -/
theorem placedOperationIsTheNextToRun : Obligations.PlacedOperationIsTheNextToRun := by
  intro s i
  rw [withFetchWord_encode]
  obtain ⟨htrace, hpos⟩ := arrange_frame i (storeCode (encode i) s)
  have hexec := exec_of_enabled (enabled_arrange i (storeCode (encode i) s))
  refine ⟨_, hexec, ?_⟩
  rw [step_of_decode_some htrace (decode_encode i), hexec, mapNext, consume_of_exec hexec, htrace, hpos]
  rfl

/-- Settles O6: the code read is consumed after the operation's effect, and a refusal is passed on. -/
theorem stepRunsTheDecodedOperation : Obligations.StepRunsTheDecodedOperation := by
  intro s c rest i htrace hc
  rw [step_of_decode_some htrace hc]
  refine ⟨fun u hexec => ?_, fun r hexec => ?_⟩
  · rw [hexec, mapNext, consume_of_exec hexec, htrace, List.tail_cons]
  · rw [hexec, mapNext]

end Sys2Proof.Machine
end

section
/-! The events on the lines and the timer's overflow (40_environment_events.md): each is always enabled, reads and writes its own
line and its own pending flag only, and requests nothing before START. -/

namespace Sys2Proof.Machine

/-! ### The edge detectors in the words of the spec -/

theorem risingEdge_iff (old new : Level) : risingEdge old new = true ↔ old = false ∧ new = true := by
  simp [risingEdge]

theorem releaseEdge_iff (old new : Level) : releaseEdge old new = true ↔ old = false ∧ new = true := by
  simp [releaseEdge, csActive]

theorem assertEdge_iff (old new : Level) : assertEdge old new = true ↔ old = true ∧ new = false := by
  simp [assertEdge, csActive]

theorem chipSelectRequests_iff (sense : CsSense) (old new : Level) :
    chipSelectRequests sense old new = true ↔
      (old = false ∧ new = true) ∨ (sense = .any ∧ old = true ∧ new = false) := by
  simp [chipSelectRequests, releaseEdge_iff, assertEdge_iff]

/-- The flag that `request` writes, as the pseudocode of 40_environment_events.md says it: set under the condition, else kept. -/
theorem flag_or_eq_ite {flag requested : Bool} {p : Prop} [Decidable p] (h : requested = true ↔ p) :
    (flag || requested) = if p then true else flag := by
  by_cases hp : p
  · rw [if_pos hp, h.mpr hp, Bool.or_true]
  · rw [if_neg hp, Bool.eq_false_iff.mpr (mt h.mp hp), Bool.or_false]

/-! ### Events run in every state -/

section
variable {i j : Instr}

theorem enabled_of_event (hi : eventLine i ≠ none) (s : State) : enabled i s = true := by
  cases i with
  | sdi _ | sck _ | csn _ | tov => rfl
  | _ => exact absurd rfl hi

theorem exec_of_event (hi : eventLine i ≠ none) (s : State) : exec i s = .next (effect i s) :=
  exec_of_enabled (enabled_of_event hi s)

theorem runOps_pair_of_events (hi : eventLine i ≠ none) (hj : eventLine j ≠ none) (s : State) :
    runOps [i, j] s = some (effect j (effect i s)) :=
  (runOps_cons ..).mpr ⟨_, exec_of_event hi s, (runOps_cons ..).mpr ⟨_, exec_of_event hj _, runOps_nil _⟩⟩

/-- No event reads or writes what an event on another line writes. -/
theorem effect_comm_of_eventLine_ne (hi : eventLine i ≠ none) (hj : eventLine j ≠ none)
    (hne : eventLine i ≠ eventLine j) (s : State) : effect j (effect i s) = effect i (effect j s) := by
  cases i with
  | sdi l =>
    cases j with
    | sck _ | csn _ | tov => rfl
    | sdi _ => exact absurd rfl hne
    | _ => exact absurd rfl hj
  | sck l =>
    cases j with
    | sdi _ | csn _ | tov => rfl
    | sck _ => exact absurd rfl hne
    | _ => exact absurd rfl hj
  | csn l =>
    cases j with
    | sdi _ | sck _ | tov => rfl
    | csn _ => exact absurd rfl hne
    | _ => exact absurd rfl hj
  | tov =>
    cases j with
    | sdi _ | sck _ | csn _ => rfl
    | tov => exact absurd rfl hne
    | _ => exact absurd rfl hj
  | _ => exact absurd rfl hi

end

/-! ### The statements -/

/-- Settles O20: events run in every state, and on distinct lines their effects commute. -/
theorem simultaneousEventsCommute : Obligations.SimultaneousEventsCommute := by
  intro i j a b s ha hb hab
  have hi : eventLine i ≠ none := by simp [ha]
  have hj : eventLine j ≠ none := by simp [hb]
  have hne : eventLine i ≠ eventLine j := by simpa [ha, hb] using hab
  refine ⟨_, runOps_pair_of_events hi hj s, ?_⟩
  rw [runOps_pair_of_events hj hi, effect_comm_of_eventLine_ne hi hj hne]

/-- Settles O15: the effect of SDI is the write of its pin. -/
theorem sdiDrivesTheDataLineOnly : Obligations.SdiDrivesTheDataLineOnly := by
  intro l s
  exact exec_of_event (i := .sdi l) (by simp [eventLine]) s

/-- Settles O16: the event of the request is the rising edge. -/
theorem sckRisingEdgeRequestsTheBitReceiver : Obligations.SckRisingEdgeRequestsTheBitReceiver := by
  intro l s
  have hedge : (risingEdge s.sck l && s.started) = true ↔ s.started = true ∧ s.sck = false ∧ l = true := by
    rw [Bool.and_eq_true, risingEdge_iff, and_comm]
  rw [← flag_or_eq_ite hedge]
  exact exec_of_event (i := .sck l) (by simp [eventLine]) s

/-- Settles O17: the event of the request is an edge that `CS_SENSE` selects. -/
theorem chipSelectEdgeRequestsTheFrameLatch : Obligations.ChipSelectEdgeRequestsTheFrameLatch := by
  intro l s
  have hedge : (chipSelectRequests s.cfg.csSense s.csN l && s.started) = true ↔
      s.started = true ∧ ((s.csN = false ∧ l = true) ∨ (s.cfg.csSense = .any ∧ s.csN = true ∧ l = false)) := by
    rw [Bool.and_eq_true, chipSelectRequests_iff, and_comm]
  rw [← flag_or_eq_ite hedge]
  exact exec_of_event (i := .csn l) (by simp [eventLine]) s

/-- Settles O18: the event of the request is the overflow itself. -/
theorem overflowRequestsTheOutputUpdater : Obligations.OverflowRequestsTheOutputUpdater := by
  intro s
  rw [← flag_or_eq_ite Iff.rfl]
  exact exec_of_event (i := .tov) (by simp [eventLine]) s

/-- Settles O19: the outcomes of the four events, with the condition of every request false. -/
theorem eventsBeforeStartSetNoFlag : Obligations.EventsBeforeStartSetNoFlag := by
  intro s l hs
  refine ⟨sdiDrivesTheDataLineOnly l s, ?_, ?_, ?_⟩
  · rw [sckRisingEdgeRequestsTheBitReceiver l s, if_neg (by simp [hs])]
  · rw [chipSelectEdgeRequestsTheFrameLatch l s, if_neg (by simp [hs])]
  · rw [overflowRequestsTheOutputUpdater s, if_neg (by simp [hs])]

end Sys2Proof.Machine
end

section
/-! The Bit Receiver (41_bit_receiver.md R100): what RXBIT answers; that the accumulator never holds more bits than are counted
(R105); and that the first 16 levels RXBIT reads are the frame, most significant first, whatever runs between them (R104). -/

namespace Sys2Proof.Machine

/-! ### One bit -/

/-- The shift, truncated to 16 bits, as the number the spec gives. -/
theorem shiftIn_eq_ofNat (w : Word) (d : Level) : shiftIn w d = BitVec.ofNat 16 (2 * w.toNat + d.toNat) :=
  BitVec.eq_of_toNat_eq (by rw [shiftIn_toNat, BitVec.toNat_ofNat])

theorem count_succ_eq_ofNat (c : Count) : c + 1 = BitVec.ofNat 5 (c.toNat + 1) :=
  BitVec.eq_of_toNat_eq (by simp)

/-- Below 16 the counter counts up without overflow. -/
theorem count_succ_toNat {c : Count} (h : c.toNat < 16) : (c + 1).toNat = c.toNat + 1 := by
  rw [count_succ_eq_ofNat, BitVec.toNat_ofNat, Nat.mod_eq_of_lt (by omega)]

theorem handlerReturn_of_ctx {s : State} {m : Micro} {rest : List Micro} (h : s.ctx = m :: rest) :
    handlerReturn s = { s with ctx := rest, gie := true } := by
  simp [handlerReturn, h]

/-- An accepted bit, as a state (41_bit_receiver.md R100). -/
theorem receiveBit_of_accepts {s : State} (hcs : s.csN = false) (hbits : s.bits.toNat < 16) :
    receiveBit s = { s with
      receive := BitVec.ofNat 16 (2 * s.receive.toNat + s.sdi.toNat)
      bits := BitVec.ofNat 5 (s.bits.toNat + 1) } := by
  rw [← shiftIn_eq_ofNat, ← count_succ_eq_ofNat]
  exact if_pos ((acceptsBit_iff s).mpr ⟨hcs, hbits⟩)

/-- Not selected, or full: the bit is ignored (41_bit_receiver.md R100). -/
theorem receiveBit_of_ignores {s : State} (h : s.csN = true ∨ 16 ≤ s.bits.toNat) : receiveBit s = s := by
  refine if_neg fun haccept => ?_
  obtain ⟨hcs, hbits⟩ := (acceptsBit_iff s).mp haccept
  exact h.elim (fun hhigh => by simp [hcs] at hhigh) (fun hfull => absurd hbits (Nat.not_lt.mpr hfull))

/-! ### The accumulator fits in the bits counted -/

/-- At most 16 bits are counted and the accumulator is below two to that count (41_bit_receiver.md R105, 10_state.md R12). -/
structure ReceiveFits (s : State) : Prop where
  bits_le : s.bits.toNat ≤ 16
  receive_lt : s.receive.toNat < 2 ^ s.bits.toNat

section
variable {s u : State}

/-- `ReceiveFits` reads the accumulator and the counter only. -/
theorem ReceiveFits.congr (h : ReceiveFits s) (hreceive : u.receive = s.receive) (hbits : u.bits = s.bits) :
    ReceiveFits u where
  bits_le := hbits ▸ h.bits_le
  receive_lt := hbits ▸ hreceive ▸ h.receive_lt

/-- An empty receiver fits. -/
theorem receiveFits_of_zero (hreceive : s.receive.toNat = 0) (hbits : s.bits.toNat = 0) : ReceiveFits s where
  bits_le := by omega
  receive_lt := by rw [hreceive]; exact Nat.two_pow_pos _

/-- One more bit doubles the bound. -/
theorem ReceiveFits.shift_lt (h : ReceiveFits s) : 2 * s.receive.toNat + s.sdi.toNat < 2 ^ (s.bits.toNat + 1) := by
  have hreceive := h.receive_lt
  have hlevel := Bool.toNat_le s.sdi
  rw [Nat.pow_succ]
  omega

/-- While the accumulator fits, an accepted bit loses nothing: the shift drops no 1 at the top. -/
theorem ReceiveFits.receiveBit_toNat (h : ReceiveFits s) (hcs : s.csN = false) (hbits : s.bits.toNat < 16) :
    (receiveBit s).receive.toNat = 2 * s.receive.toNat + s.sdi.toNat ∧
      (receiveBit s).bits.toNat = s.bits.toNat + 1 := by
  have hpow : 2 ^ (s.bits.toNat + 1) ≤ 2 ^ 16 := Nat.pow_le_pow_right (by decide) hbits
  rw [receiveBit_of_accepts hcs hbits]
  exact ⟨Nat.mod_eq_of_lt (h.shift_lt.trans_le hpow), Nat.mod_eq_of_lt (by omega)⟩

theorem receiveFits_receiveBit (h : ReceiveFits s) : ReceiveFits (receiveBit s) := by
  by_cases haccept : s.csN = false ∧ s.bits.toNat < 16
  · obtain ⟨hcs, hlt⟩ := haccept
    obtain ⟨hreceive, hbits⟩ := h.receiveBit_toNat hcs hlt
    exact ⟨by omega, by rw [hreceive, hbits]; exact h.shift_lt⟩
  · have hignores : s.csN = true ∨ 16 ≤ s.bits.toNat := by
      simpa [imp_iff_not_or] using haccept
    rwa [receiveBit_of_ignores hignores]

/-- The Frame Latch leaves the receiver as it is or empty (42_frame_latch.md R110). -/
theorem receiveFits_latchFrame (h : ReceiveFits s) : ReceiveFits (latchFrame s) := by
  unfold latchFrame
  split_ifs
  · exact receiveFits_of_zero rfl rfl
  · exact receiveFits_of_zero rfl rfl
  · exact h

/-- What is neither RXBIT nor FLATCH nor RESET leaves the receiver as it was (10_state.md R26). -/
theorem receiver_of_not_writer {i : Instr} (hi : ¬ (i = .rxbit ∨ i = .flatch ∨ i = .reset)) (s : State) :
    (effect i s).receive = s.receive ∧ (effect i s).bits = s.bits :=
  ⟨not_imp_comm.mp (receive_writers i s) hi, not_imp_comm.mp (bits_writers i s) hi⟩

/-- Every operation keeps the bound: the three writers of the receiver each do. -/
theorem receiveFits_exec {i : Instr} (h : ReceiveFits s) (hexec : exec i s = .next u) : ReceiveFits u := by
  obtain ⟨-, rfl⟩ := (exec_next_iff i s u).mp hexec
  by_cases hi : i = .rxbit ∨ i = .flatch ∨ i = .reset
  · obtain rfl | rfl | rfl := hi
    · exact (receiveFits_receiveBit h).congr rfl rfl
    · exact (receiveFits_latchFrame h).congr rfl rfl
    · exact receiveFits_of_zero rfl rfl
  · obtain ⟨hreceive, hbits⟩ := receiver_of_not_writer hi s
    exact h.congr hreceive hbits

/-- A step performs one operation, if any; consuming its code leaves the receiver alone. -/
theorem receiveFits_step (h : ReceiveFits s) (hstep : step s = .next u) : ReceiveFits u := by
  obtain ⟨i, t, -, hexec, rfl⟩ | ⟨i, -, hexec⟩ | ⟨-, rfl⟩ := (step_next s u).mp hstep
  · exact (receiveFits_exec h hexec).congr (consume_receive t) (consume_bits t)
  · exact receiveFits_exec h hexec
  · exact h

end

/-! ### The frame is the first 16 levels sampled -/

/-- One more level is one more binary digit, the lowest. -/
theorem levelsValue_concat (ds : List Level) (d : Level) : levelsValue (ds ++ [d]) = 2 * levelsValue ds + d.toNat := by
  simp [levelsValue]

/-- The levels one operation samples: that of `SDI` at an RXBIT. -/
def sampledBy (i : Instr) (s : State) : List Level := if i = .rxbit then [s.sdi] else []

theorem sampledLevels_cons {i : Instr} {s t : State} (h : exec i s = .next t) (is : List Instr) :
    sampledLevels (i :: is) s = sampledBy i s ++ sampledLevels is t := by
  simp only [sampledLevels, h]
  rfl

/-- Chip-select is asserted, and the receiver holds the first 16 of the levels `ds`, first level highest: the invariant of a run
that started with an empty receiver and has sampled `ds` (41_bit_receiver.md R104). -/
structure HoldsFirstOf (ds : List Level) (s : State) : Prop where
  selected : s.csN = false
  fits : ReceiveFits s
  count : s.bits.toNat = min 16 ds.length
  word : s.receive.toNat = levelsValue (ds.take 16)

section
variable {s u : State} {ds : List Level}

theorem holdsFirstOf_nil (hbits : s.bits.toNat = 0) (hreceive : s.receive.toNat = 0) (hcs : s.csN = false) :
    HoldsFirstOf [] s where
  selected := hcs
  fits := receiveFits_of_zero hreceive hbits
  count := hbits
  word := hreceive

/-- `HoldsFirstOf` reads `CS_N`, the accumulator and the counter only. -/
theorem HoldsFirstOf.congr (h : HoldsFirstOf ds s) (hcs : u.csN = s.csN ∨ u.csN = false) (hreceive : u.receive = s.receive)
    (hbits : u.bits = s.bits) : HoldsFirstOf ds u where
  selected := hcs.elim (·.trans h.selected) id
  fits := h.fits.congr hreceive hbits
  count := hbits ▸ h.count
  word := hreceive ▸ h.word

/-- RXBIT adds the level it reads; once 16 are in, it adds nothing and the first 16 stay the same. -/
theorem holdsFirstOf_receiveBit (h : HoldsFirstOf ds s) : HoldsFirstOf (ds ++ [s.sdi]) (receiveBit s) := by
  have hcount := h.count
  by_cases hroom : ds.length < 16
  · obtain ⟨hreceive, hbits⟩ := h.fits.receiveBit_toNat h.selected (by omega)
    have hword : s.receive.toNat = levelsValue ds := by rw [h.word, List.take_of_length_le hroom.le]
    exact {
      selected := (receiveBit_csN s).trans h.selected
      fits := receiveFits_receiveBit h.fits
      count := by rw [hbits, List.length_append, List.length_singleton]; omega
      word := by rw [hreceive, hword, List.take_of_length_le (by simpa using hroom), levelsValue_concat] }
  · have hfull : 16 ≤ ds.length := Nat.not_lt.mp hroom
    rw [receiveBit_of_ignores (.inr (by omega))]
    exact { h with
      count := by rw [hcount, List.length_append]; omega
      word := by rw [h.word, List.take_append_of_le_length hfull] }

/-- Every operation but FLATCH, RESET and a release adds just the levels it samples. -/
theorem holdsFirstOf_exec {i : Instr} (h : HoldsFirstOf ds s) (hi : i ≠ .flatch ∧ i ≠ .reset ∧ i ≠ .csn true)
    (hexec : exec i s = .next u) : HoldsFirstOf (ds ++ sampledBy i s) u := by
  obtain ⟨-, rfl⟩ := (exec_next_iff i s u).mp hexec
  obtain ⟨hflatch, hreset, hrelease⟩ := hi
  by_cases hrxbit : i = .rxbit
  · subst hrxbit
    exact (holdsFirstOf_receiveBit h).congr (.inl rfl) rfl rfl
  · have hcs : (effect i s).csN = s.csN ∨ (effect i s).csN = false := by
      refine or_iff_not_imp_left.mpr fun hchanged => ?_
      obtain ⟨l, rfl⟩ := csN_writers i s hchanged
      have hl : l = false := by simpa using hrelease
      simp [effect, hl]
    obtain ⟨hreceive, hbits⟩ := receiver_of_not_writer (i := i) (by simp [hrxbit, hflatch, hreset]) s
    rw [sampledBy, if_neg hrxbit, List.append_nil]
    exact h.congr hcs hreceive hbits

/-- Along a run, one operation at a time. -/
theorem holdsFirstOf_runOps {is : List Instr} (h : HoldsFirstOf ds s)
    (his : ∀ i ∈ is, i ≠ .flatch ∧ i ≠ .reset ∧ i ≠ .csn true) (hrun : runOps is s = some u) :
    HoldsFirstOf (ds ++ sampledLevels is s) u := by
  induction is generalizing s ds with
  | nil =>
    obtain rfl : s = u := Option.some.inj hrun
    simpa [sampledLevels] using h
  | cons i is ih =>
    obtain ⟨t, hexec, hrest⟩ := (runOps_cons i is s u).mp hrun
    obtain ⟨hi, his⟩ := List.forall_mem_cons.mp his
    rw [sampledLevels_cons hexec, ← List.append_assoc]
    exact ih (holdsFirstOf_exec h hi hexec) his hrest

end

/-! ### The statements -/

/-- Settles O32: every step keeps `ReceiveFits`. -/
theorem accumulatorStaysBelowTwoToTheCount : Obligations.AccumulatorStaysBelowTwoToTheCount := by
  intro s u hbits hreceive hstep
  have hfits : ReceiveFits u := receiveFits_step ⟨hbits, hreceive⟩ hstep
  exact ⟨hfits.bits_le, hfits.receive_lt⟩

/-- Settles O33: the run starts with an empty receiver, which holds the first levels of none. -/
theorem firstSixteenSampledLevelsAreTheFrame : Obligations.FirstSixteenSampledLevelsAreTheFrame := by
  intro is s u hbits hreceive hcs his hrun
  have hholds : HoldsFirstOf ([] ++ sampledLevels is s) u :=
    holdsFirstOf_runOps (holdsFirstOf_nil hbits hreceive hcs) his hrun
  exact ⟨hholds.count, hholds.word⟩

/-- Settles O28: RXBIT's effect is the return after the bit is taken or ignored. -/
theorem rxbitShiftsInOneBitWhileSelectedAndNotFull : Obligations.RxbitShiftsInOneBitWhileSelectedAndNotFull := by
  intro s rest hctx
  have hexec : exec .rxbit s = .next (handlerReturn (receiveBit s)) :=
    exec_of_enabled (i := .rxbit) ((atTop_iff .rxbit s).mpr ⟨rest, hctx⟩)
  rw [hexec, handlerReturn_of_ctx ((receiveBit_ctx s).trans hctx)]
  constructor
  · intro hcs hbits
    rw [receiveBit_of_accepts hcs hbits]
  · intro hignores
    rw [receiveBit_of_ignores hignores]

end Sys2Proof.Machine
end

section
/-! The Frame Latch (42_frame_latch.md R110 to R114): what FLATCH answers, that it does not read `CS_N`, and that after a latch a
further one changes nothing. -/

namespace Sys2Proof.Machine

section
variable {s : State}

/-- A complete frame is published and the receiver emptied. -/
theorem latchFrame_of_full (h : s.bits.toNat = 16) :
    latchFrame s = { s with value := s.receive, receive := 0, bits := 0 } :=
  if_pos ((bits_eq_fullCount_iff s).mpr h)

theorem latchFrame_of_not_full (h : s.bits.toNat ≠ 16) :
    latchFrame s = if s.cfg.resetOnDiscard then clearFrame s else s :=
  if_neg (mt (bits_eq_fullCount_iff s).mp h)

/-- The source's own behaviour on a short frame: the partial frame stays (42_frame_latch.md R111). -/
theorem latchFrame_of_keeps (h : s.bits.toNat ≠ 16) (hcfg : s.cfg.resetOnDiscard = false) : latchFrame s = s := by
  rw [latchFrame_of_not_full h, hcfg, if_neg Bool.false_ne_true]

/-- With no bit received there is nothing to latch, and clearing changes nothing either (42_frame_latch.md R110, R114). -/
theorem latchFrame_of_empty (hreceive : s.receive = 0) (hbits : s.bits = 0) : latchFrame s = s := by
  have hclear : clearFrame s = s := by rw [clearFrame, ← hreceive, ← hbits]
  rw [latchFrame_of_not_full (by simp [hbits]), hclear, ite_self]

/-- The branches of FLATCH are on `bits` and `RESET_ON_DISCARD`, not on a pin (42_frame_latch.md R113). -/
theorem latchFrame_pinWrite (p : Pin) (l : Level) (s : State) :
    latchFrame (pinWrite p l s) = pinWrite p l (latchFrame s) := by
  unfold latchFrame
  rw [apply_ite (pinWrite p l), apply_ite (pinWrite p l)]
  cases p <;> rfl

/-- The micro-operation at the top of `ctx` is enabled and has its effect. -/
theorem exec_microInstr {m : Micro} {rest : List Micro} (hctx : s.ctx = m :: rest) :
    exec m.instr s = .next (effect m.instr s) :=
  exec_of_enabled (by rw [enabled_microInstr, atTop_iff]; exact ⟨rest, hctx⟩)

theorem exec_flatch {rest : List Micro} (hctx : s.ctx = .flatch :: rest) :
    exec .flatch s = .next { latchFrame s with ctx := rest, gie := true } := by
  rw [← handlerReturn_of_ctx ((latchFrame_ctx s).trans hctx)]
  exact exec_microInstr hctx

end

/-! ### The statements -/

/-- Settles O29: FLATCH's effect is the return after the frame is latched, cleared or kept. -/
theorem flatchLatchesACompleteFrameOrDiscards : Obligations.FlatchLatchesACompleteFrameOrDiscards := by
  intro s rest hctx
  rw [exec_flatch hctx]
  refine ⟨fun hfull => ?_, fun hshort hcfg => ?_, fun hshort hcfg => ?_⟩
  · rw [latchFrame_of_full hfull]
  · rw [latchFrame_of_not_full hshort, if_pos hcfg]
    rfl
  · rw [latchFrame_of_keeps hshort hcfg]

/-- Settles O30: neither the enabling condition nor the effect of FLATCH reads the pin. -/
theorem flatchDoesNotReadChipSelect : Obligations.FlatchDoesNotReadChipSelect := by
  intro s l
  have heffect : effect .flatch (pinWrite .csN l s) = pinWrite .csN l (effect .flatch s) :=
    congrArg handlerReturn (latchFrame_pinWrite .csN l s)
  calc exec .flatch (pinWrite .csN l s)
      = guarded .flatch (pinWrite .csN l s) (pinWrite .csN l (effect .flatch s)) := by rw [exec_eq_guarded, heffect]
    _ = mapNext (pinWrite .csN l) (guarded .flatch s (effect .flatch s)) := by
      rw [guarded, guarded, apply_ite (mapNext (pinWrite .csN l))]
      rfl
    _ = mapNext (pinWrite .csN l) (exec .flatch s) := by rw [exec_eq_guarded]

/-- Settles O31: the latch leaves the count at 0, where a further FLATCH has nothing to latch and nothing to clear. -/
theorem secondReleaseDoesNotLatchAgain : Obligations.SecondReleaseDoesNotLatchAgain := by
  intro s rest hctx hfull
  refine ⟨_, exec_flatch hctx, ?_, ?_⟩
  · rw [latchFrame_of_full hfull]
    rfl
  · rw [latchFrame_of_full hfull, exec_flatch rfl, latchFrame_of_empty rfl rfl]

end Sys2Proof.Machine
end

section
/-! `settle` and the pseudo-operations on an idle block (60_exceptions.md R162, 30_encoding.md R70): one request is served by one
run of its handler, a clock cycle shifts in the level of `SDI`, and an edge of `CS_N` runs the Frame Latch or nothing. -/

namespace Sys2Proof.Machine

/-! ### settle -/

section
variable {s : State} {x : Source}

/-- With nothing to dispatch the block goes on with the running handler, if any. -/
theorem blockChoice_of_no_dispatchable (h : ∀ y : Source, dispatchable y s = false) :
    blockChoice s = s.ctx.head?.map Micro.instr := by
  have hnone : (prioOrder s.cfg.prio).find? (fun y => dispatchable y s) = none := by simp [h]
  simp only [blockChoice, hnone]

theorem mem_prioOrder (p : Prio) (x : Source) : x ∈ prioOrder p := by
  cases p <;> cases x <;> decide

/-- A source that alone is dispatchable is dispatched, whatever `PRIO` is. -/
theorem blockChoice_of_dispatchable_iff (h : ∀ y : Source, dispatchable y s = true ↔ y = x) :
    blockChoice s = some x.instr := by
  have hsome : ((prioOrder s.cfg.prio).find? fun y => dispatchable y s).isSome :=
    List.find?_isSome.mpr ⟨x, mem_prioOrder _ x, (h x).mpr rfl⟩
  obtain ⟨y, hy⟩ := Option.isSome_iff_exists.mp hsome
  obtain rfl : y = x := (h y).mp (List.find?_some (p := fun y => dispatchable y s) hy)
  simp only [blockChoice, hy]

theorem settleFor_succ_of_blockChoice {i : Instr} (h : blockChoice s = some i) (n : Nat) :
    settleFor (n + 1) s = (i :: (settleFor n (effect i s)).1, (settleFor n (effect i s)).2) := by
  simp only [settleFor, h, exec_of_enabled (enabled_of_blockChoice h)]

theorem settleFor_of_quiescent (h : Quiescent s) (n : Nat) : settleFor n s = ([], s) := by
  obtain ⟨hctx, hnone⟩ := h
  cases n with
  | zero => rfl
  | succ n => simp only [settleFor, blockChoice_of_no_dispatchable hnone, hctx, List.head?_nil, Option.map_none]

theorem settle_of_quiescent (h : Quiescent s) : settle s = ([], s) := settleFor_of_quiescent h _

end

/-! ### The idle block -/

/-- The block is started, with interrupts enabled, no handler running and no source requested. -/
structure Idle (s : State) : Prop where
  started : s.started = true
  gie : s.gie = true
  ctx : s.ctx = []
  served : ∀ x : Source, pending x s = false

/-- The state in which an idle block runs the first micro-operation of a handler. -/
def entered (x : Source) (s : State) : State := { s with ctx := [x.entry], gie := s.cfg.nesting }

section
variable {s u v : State} {x : Source}

/-- A quiescent started block has nothing pending: `GIE` is 1 and no handler runs, so a pending source would be dispatchable. -/
theorem Inv.idle (h : Inv s) (hstarted : s.started = true) (hquiet : Quiescent s) : Idle s := by
  obtain ⟨hctx, hnone⟩ := hquiet
  have hgie : s.gie = true := h.gie_iff.mpr ⟨hstarted, by simp [hctx], .inr hctx⟩
  refine ⟨hstarted, hgie, hctx, fun x => Bool.eq_false_iff.mpr fun hpending => ?_⟩
  exact Bool.eq_false_iff.mp (hnone x) ((dispatchable_iff x s).mpr ⟨hstarted, hgie, hpending, by simp [hctx]⟩)

theorem dispatchable_of_not_pending (h : pending x s = false) : dispatchable x s = false := by
  simp [dispatchable, waiting, h]

theorem Idle.quiescent (h : Idle s) : Quiescent s := ⟨h.ctx, fun x => dispatchable_of_not_pending (h.served x)⟩

/-- An effect that writes none of the four fields leaves the block idle. -/
theorem Idle.congr (h : Idle s) (hstarted : u.started = s.started) (hgie : u.gie = s.gie) (hctx : u.ctx = s.ctx)
    (hpending : ∀ x : Source, pending x u = pending x s) : Idle u where
  started := hstarted.trans h.started
  gie := hgie.trans h.gie
  ctx := hctx.trans h.ctx
  served x := (hpending x).trans (h.served x)

theorem Idle.pinWrite (h : Idle s) (p : Pin) (l : Level) : Idle (pinWrite p l s) :=
  h.congr (by simp) (by simp) (by simp) fun x => by cases x <;> simp [pending]

theorem Idle.receiveBit (h : Idle s) : Idle (receiveBit s) :=
  h.congr (by simp) (by simp) (by simp) fun x => by cases x <;> simp [pending]

theorem Idle.latchFrame (h : Idle s) : Idle (latchFrame s) :=
  h.congr (by simp) (by simp) (by simp) fun x => by cases x <;> simp [pending]

/-- A request that does not occur changes nothing. -/
theorem request_false (x : Source) (s : State) : request x false s = s := by
  cases x <;> simp [request, writePending, pending]

/-- A request of a started block sets the flag. -/
theorem request_true (x : Source) (hstarted : s.started = true) : request x true s = writePending x true s := by
  simp [request, hstarted]

/-- A pin written twice, the second time with its old level, is as it was. -/
theorem pinWrite_pinWrite_self (p : Pin) (l : Level) (s : State) : pinWrite p (pinRead p s) (pinWrite p l s) = s := by
  cases p <;> rfl

/-- A flag written twice, the second time with its old value, is as it was. -/
theorem writePending_writePending_self (x : Source) (v : Level) (s : State) :
    writePending x (pending x s) (writePending x v s) = s := by
  cases x <;> rfl

/-- The dispatch of the one source that was requested: its flag is clear again. -/
theorem takeInterrupt_of_idle (h : Idle s) (x : Source) : takeInterrupt x (writePending x true s) = entered x s := by
  have hflag : writePending x false (writePending x true s) = s :=
    h.served x ▸ writePending_writePending_self x true s
  have hframe : pushFrame x.entry s = { s with ctx := [x.entry] } := by rw [pushFrame, h.ctx]
  simp only [takeInterrupt, entered, hflag, hframe]
  cases s.cfg.nesting with
  | true => simp [h.gie]
  | false => simp

/-- The handler of an idle block returns to the idle block. -/
theorem handlerReturn_entered (h : Idle s) (x : Source) : handlerReturn (entered x s) = s := by
  calc handlerReturn (entered x s) = { s with ctx := [], gie := true } := rfl
    _ = s := by rw [← h.ctx, ← h.gie]

/-- The branch of RXBIT is on `CS_N` and `bits`. -/
theorem receiveBit_entered (x : Source) (s : State) : receiveBit (entered x s) = entered x (receiveBit s) := by
  unfold receiveBit
  rw [apply_ite (entered x)]
  rfl

/-- The branches of FLATCH are on `bits` and `RESET_ON_DISCARD`. -/
theorem latchFrame_entered (x : Source) (s : State) : latchFrame (entered x s) = entered x (latchFrame s) := by
  unfold latchFrame
  rw [apply_ite (entered x), apply_ite (entered x)]
  rfl

/-- One request in an idle block is one dispatch and one micro-operation, if that one returns to an idle block. -/
theorem settle_of_request (h : Idle s) (hv : Idle v)
    (hbody : effect x.entry.instr (entered x s) = handlerReturn (entered x v)) :
    settle (writePending x true s) = ([x.instr, x.entry.instr], v) := by
  have hdispatch : blockChoice (writePending x true s) = some x.instr :=
    blockChoice_of_dispatchable_iff fun y => by
      simp [dispatchable_iff, h.started, h.gie, h.ctx, h.served]
  have hentered : effect x.instr (writePending x true s) = entered x s := by
    rw [← takeInterrupt_of_idle h]
    cases x <;> rfl
  have hrun : blockChoice (entered x s) = some x.entry.instr :=
    blockChoice_of_no_dispatchable fun y => dispatchable_of_not_pending (h.served y)
  have hdone : effect x.entry.instr (entered x s) = v := hbody.trans (handlerReturn_entered hv x)
  rw [settle, settleBound, settleFor_succ_of_blockChoice hdispatch, hentered, settleFor_succ_of_blockChoice hrun, hdone,
    settleFor_of_quiescent hv.quiescent]

/-- A requested Bit Receiver takes its bit. -/
theorem settle_of_request_sck (h : Idle s) : settle (writePending .sck true s) = ([.irqSck, .rxbit], receiveBit s) :=
  settle_of_request h h.receiveBit (congrArg handlerReturn (receiveBit_entered .sck s))

/-- A requested Frame Latch latches or discards. -/
theorem settle_of_request_cs (h : Idle s) : settle (writePending .cs true s) = ([.irqCs, .flatch], latchFrame s) :=
  settle_of_request h h.latchFrame (congrArg handlerReturn (latchFrame_entered .cs s))

end

/-! ### Expansions, one item at a time -/

section
variable {s t u : State} {is js : List Instr} {rest : List Item}

theorem runItems_op_cons {i : Instr} (hexec : exec i s = .next t) (hrest : runItems rest t = some (is, u)) :
    runItems (.op i :: rest) s = some (i :: is, u) := by
  simp only [runItems, hexec, hrest, Option.map_some]

theorem runItems_settle_cons (hsettle : settle s = (is, t)) (hrest : runItems rest t = some (js, u)) :
    runItems (.settle :: rest) s = some (is ++ js, u) := by
  simp only [runItems, hsettle, hrest, Option.map_some]

/-- Two expansions, one after the other. -/
theorem runItems_append {items : List Item} (hitems : runItems items s = some (is, t))
    (hrest : runItems rest t = some (js, u)) : runItems (items ++ rest) s = some (is ++ js, u) := by
  induction items generalizing s is with
  | nil =>
    obtain ⟨rfl, rfl⟩ : [] = is ∧ s = t := by simpa [runItems] using hitems
    exact hrest
  | cons item items ih =>
    cases item with
    | op i =>
      cases hexec : exec i s with
      | next v =>
        obtain ⟨ks, hks, rfl⟩ : ∃ ks, runItems items v = some (ks, t) ∧ i :: ks = is := by
          simpa [runItems, hexec] using hitems
        exact runItems_op_cons hexec (ih hks)
      | fault r => simp [runItems, hexec] at hitems
      | refused r => simp [runItems, hexec] at hitems
    | settle =>
      obtain ⟨ks, hks, rfl⟩ : ∃ ks, runItems items (settle s).2 = some (ks, t) ∧ (settle s).1 ++ ks = is := by
        simpa [runItems] using hitems
      rw [List.append_assoc]
      exact runItems_settle_cons rfl (ih hks)

end

/-! ### Clock cycles -/

/-- The operations of `clk d` on an idle block. -/
def clkOps (d : Level) : List Instr := [.sdi d, .sck true, .irqSck, .rxbit, .sck false]

/-- The state `clk d` leaves: the data line's level is `d` and the Bit Receiver has read it. -/
def clocked (s : State) (d : Level) : State := receiveBit (pinWrite .sdi d s)

/-- The levels of the low `n` bits of a word, the highest first: the order in which `clkn n w` sends them. -/
def wordLevels : Nat → Word → List Level
  | 0, _ => []
  | n + 1, w => w.getLsbD n :: wordLevels n w

theorem clknItems_eq_flatMap (n : Nat) (w : Word) : clknItems n w = (wordLevels n w).flatMap clkItems := by
  induction n with
  | zero => rfl
  | succ n ih => rw [clknItems, wordLevels, List.flatMap_cons, ih]

section
variable {s : State}

theorem Idle.clocked (h : Idle s) (d : Level) : Idle (clocked s d) := (h.pinWrite .sdi d).receiveBit

@[simp] theorem clocked_sck (s : State) (d : Level) : (clocked s d).sck = s.sck := by simp [clocked]

/-- RXBIT reads neither the level nor the edges of `SCK`. -/
theorem receiveBit_pinWrite_sck (l : Level) (s : State) :
    receiveBit (pinWrite .sck l s) = pinWrite .sck l (receiveBit s) := by
  unfold receiveBit
  rw [apply_ite (pinWrite .sck l)]
  rfl

/-- One rising edge is one request, served by one RXBIT; the falling edge requests nothing. -/
theorem runItems_clkItems (h : Idle s) (hsck : s.sck = false) (d : Level) :
    runItems (clkItems d) s = some (clkOps d, clocked s d) := by
  have hdata : Idle (pinWrite .sdi d s) := h.pinWrite .sdi d
  have hrise : effect (.sck true) (pinWrite .sdi d s) = writePending .sck true (pinWrite .sck true (pinWrite .sdi d s)) := by
    have hedge : risingEdge (pinRead .sck (pinWrite .sdi d s)) true = true := (risingEdge_iff _ _).mpr ⟨hsck, rfl⟩
    rw [effect, hedge, request_true .sck hdata.started]
    rfl
  have hfall : effect (.sck false) (receiveBit (pinWrite .sck true (pinWrite .sdi d s))) = clocked s d := by
    have hlow : pinRead .sck (clocked s d) = false := (clocked_sck s d).trans hsck
    have hedge : ∀ l : Level, risingEdge l false = false := fun l => Bool.and_false _
    rw [effect, hedge, request_false, receiveBit_pinWrite_sck, ← hlow]
    exact pinWrite_pinWrite_self .sck true (clocked s d)
  refine runItems_op_cons (exec_of_enabled rfl) ?_
  refine runItems_op_cons (exec_of_enabled rfl) ?_
  refine runItems_settle_cons (hrise ▸ settle_of_request_sck (hdata.pinWrite .sck true)) ?_
  exact runItems_op_cons (exec_of_enabled rfl) (hfall ▸ rfl)

/-- Clock cycles leave the block idle. -/
theorem idle_foldl_clocked (h : Idle s) (ds : List Level) : Idle (ds.foldl clocked s) := by
  induction ds generalizing s with
  | nil => exact h
  | cons d ds ih => exact ih (h.clocked d)

/-- A train of clock cycles, one after the other. -/
theorem runItems_flatMap_clkItems (h : Idle s) (hsck : s.sck = false) (ds : List Level) :
    runItems (ds.flatMap clkItems) s = some (ds.flatMap clkOps, ds.foldl clocked s) := by
  induction ds generalizing s with
  | nil => rfl
  | cons d ds ih => exact runItems_append (runItems_clkItems h hsck d) (ih (h.clocked d) ((clocked_sck s d).trans hsck))

end

/-! ### Edges of chip-select -/

section
variable {s : State} {l : Level}

/-- An edge that requests the Frame Latch runs it once. -/
theorem runItems_csn_settle_of_requests (h : Idle s) (hedge : chipSelectRequests s.cfg.csSense s.csN l = true) :
    runItems [.op (.csn l), .settle] s = some ([.csn l, .irqCs, .flatch], latchFrame (pinWrite .csN l s)) := by
  have heffect : effect (.csn l) s = writePending .cs true (pinWrite .csN l s) := by
    rw [effect, pinRead, hedge, request_true .cs h.started]
    rfl
  have hsettle : settle (effect (.csn l) s) = ([.irqCs, .flatch], latchFrame (pinWrite .csN l s)) := by
    rw [heffect, settle_of_request_cs (h.pinWrite .csN l)]
  exact runItems_op_cons (exec_of_enabled rfl) (runItems_settle_cons hsettle rfl)

/-- An edge that requests nothing, or no edge, drives the pin only. -/
theorem runItems_csn_settle_of_not_requests (h : Idle s) (hedge : chipSelectRequests s.cfg.csSense s.csN l = false) :
    runItems [.op (.csn l), .settle] s = some ([.csn l], pinWrite .csN l s) := by
  have heffect : effect (.csn l) s = pinWrite .csN l s := by
    rw [effect, pinRead, hedge, request_false]
  have hsettle : settle (effect (.csn l) s) = ([], pinWrite .csN l s) := by
    rw [heffect, settle_of_quiescent (h.pinWrite .csN l).quiescent]
  exact runItems_op_cons (exec_of_enabled rfl) (runItems_settle_cons hsettle rfl)

/-- Where FLATCH would change nothing, the setting of `CS_SENSE` makes no difference to the state an edge leaves. -/
theorem exists_runItems_csn_settle (h : Idle s) (hlatch : latchFrame s = s) :
    ∃ is : List Instr, runItems [.op (.csn l), .settle] s = some (is, pinWrite .csN l s) := by
  cases hedge : chipSelectRequests s.cfg.csSense s.csN l with
  | true =>
    have hrun := runItems_csn_settle_of_requests h hedge
    rw [latchFrame_pinWrite, hlatch] at hrun
    exact ⟨_, hrun⟩
  | false => exact ⟨_, runItems_csn_settle_of_not_requests h hedge⟩

end

end Sys2Proof.Machine
end

section
/-! A frame after a short frame (42_frame_latch.md R117, 70_reset_and_hazards.md R200): the stale bits count as the first levels of
the next frame, so the word latched is the first 16 of the stale levels followed by the frame's own. -/

namespace Sys2Proof.Machine

/-! ### Words as lists of levels -/

@[simp] theorem length_wordLevels (n : Nat) (w : Word) : (wordLevels n w).length = n := by
  induction n with
  | zero => rfl
  | succ n ih => rw [wordLevels, List.length_cons, ih]

theorem levelsValue_append (ds es : List Level) :
    levelsValue (ds ++ es) = levelsValue ds * 2 ^ es.length + levelsValue es := by
  induction es using List.reverseRecOn with
  | nil => simp [levelsValue]
  | append_singleton es e ih =>
    rw [← List.append_assoc, levelsValue_concat, levelsValue_concat, ih, List.length_append, List.length_singleton,
      Nat.pow_succ]
    ring

theorem levelsValue_wordLevels (n : Nat) (w : Word) : levelsValue (wordLevels n w) = w.toNat % 2 ^ n := by
  induction n with
  | zero => simp [wordLevels, levelsValue, Nat.mod_one]
  | succ n ih =>
    have hsingle : levelsValue [w.getLsbD n] = (w.getLsbD n).toNat := Nat.zero_add _
    rw [wordLevels, ← List.singleton_append, levelsValue_append, ih, hsingle, length_wordLevels, Nat.mod_pow_succ,
      BitVec.getLsbD, Nat.toNat_testBit]
    ring

/-- The bits of a word from bit `b` on come first. -/
theorem wordLevels_add (a b : Nat) (w : Word) : wordLevels (a + b) w = wordLevels a (w >>> b) ++ wordLevels b w := by
  induction a with
  | zero => rw [Nat.zero_add]; rfl
  | succ a ih =>
    rw [Nat.succ_add, wordLevels, wordLevels, ih, BitVec.getLsbD_ushiftRight, Nat.add_comm b a, List.cons_append]

/-- The first `16 - n` bits of a word are the word without its low `n` bits. -/
theorem levelsValue_take_wordLevels {n : Nat} (hn : n ≤ 16) (w : Word) :
    levelsValue ((wordLevels 16 w).take (16 - n)) = w.toNat / 2 ^ n := by
  have hsplit : wordLevels 16 w = wordLevels (16 - n) (w >>> n) ++ wordLevels n w := by
    rw [← wordLevels_add, Nat.sub_add_cancel hn]
  have hlt : w.toNat / 2 ^ n < 2 ^ (16 - n) := by
    rw [Nat.div_lt_iff_lt_mul (Nat.two_pow_pos n), ← Nat.pow_add, Nat.sub_add_cancel hn]
    exact w.isLt
  rw [hsplit, List.take_left' (length_wordLevels _ _), levelsValue_wordLevels, BitVec.toNat_ushiftRight,
    Nat.shiftRight_eq_div_pow, Nat.mod_eq_of_lt hlt]

/-- The first 16 levels of `n` stale bits followed by a word. -/
theorem levelsValue_take_stale {n : Nat} (hn : n ≤ 16) {r : Word} (hr : r.toNat < 2 ^ n) (w : Word) :
    levelsValue ((wordLevels n r ++ wordLevels 16 w).take 16) = r.toNat * 2 ^ (16 - n) + w.toNat / 2 ^ n := by
  have htake : (wordLevels n r ++ wordLevels 16 w).take 16 = wordLevels n r ++ (wordLevels 16 w).take (16 - n) := by
    rw [List.take_append, length_wordLevels, List.take_of_length_le (by simpa using hn)]
  have hlength : ((wordLevels 16 w).take (16 - n)).length = 16 - n := by simp
  rw [htake, levelsValue_append, hlength, levelsValue_wordLevels, Nat.mod_eq_of_lt hr, levelsValue_take_wordLevels hn]

/-! ### The receiver over a train of clock cycles -/

section
variable {s : State}

/-- Whatever the receiver of a selected block holds, it holds as the levels of its own bits. -/
theorem holdsFirstOf_own_bits (h : ReceiveFits s) (hcs : s.csN = false) :
    HoldsFirstOf (wordLevels s.bits.toNat s.receive) s where
  selected := hcs
  fits := h
  count := by rw [length_wordLevels, Nat.min_eq_right h.bits_le]
  word := by
    rw [List.take_of_length_le (by simpa using h.bits_le), levelsValue_wordLevels, Nat.mod_eq_of_lt h.receive_lt]

theorem holdsFirstOf_clocked {ds : List Level} (h : HoldsFirstOf ds s) (d : Level) :
    HoldsFirstOf (ds ++ [d]) (clocked s d) :=
  holdsFirstOf_receiveBit (h.congr (u := pinWrite .sdi d s) (.inl rfl) rfl rfl)

/-- Each clock cycle adds the level it sends. -/
theorem holdsFirstOf_foldl_clocked {ds : List Level} (h : HoldsFirstOf ds s) (es : List Level) :
    HoldsFirstOf (ds ++ es) (es.foldl clocked s) := by
  induction es generalizing s ds with
  | nil => simpa using h
  | cons e es ih => simpa using ih (holdsFirstOf_clocked h e)

/-- `frame w` on an idle block where the assertion of chip-select leaves the receiver as it is: it latches what the receiver
holds after the 16 clock cycles. -/
theorem exists_runPseudo_frame (h : Idle s) (hsck : s.sck = false) (hfits : ReceiveFits s) (hlatch : latchFrame s = s)
    (w : Word) :
    ∃ (is : List Instr) (u : State), runPseudo (.frame w) s = some (is, u) ∧
      u.value.toNat = levelsValue ((wordLevels s.bits.toNat s.receive ++ wordLevels 16 w).take 16) ∧
      u.receive = 0 ∧ u.bits = 0 := by
  obtain ⟨is, hassert⟩ := exists_runItems_csn_settle (l := false) h hlatch
  have hselected : Idle (pinWrite .csN false s) := h.pinWrite .csN false
  have hclocks := runItems_flatMap_clkItems hselected hsck (wordLevels 16 w)
  have hholds := holdsFirstOf_foldl_clocked (holdsFirstOf_own_bits (hfits.congr (u := pinWrite .csN false s) rfl rfl) rfl)
    (wordLevels 16 w)
  have hidle := idle_foldl_clocked hselected (wordLevels 16 w)
  generalize (wordLevels 16 w).foldl clocked (pinWrite .csN false s) = v at hclocks hholds hidle
  have hrelease := runItems_csn_settle_of_requests (l := true) hidle
    ((chipSelectRequests_iff _ _ _).mpr (.inl ⟨hholds.selected, rfl⟩))
  have hfull : (pinWrite .csN true v).bits.toNat = 16 := by
    rw [pinWrite_bits, hholds.count, List.length_append, length_wordLevels, length_wordLevels]
    omega
  rw [latchFrame_of_full hfull] at hrelease
  have hrun := runItems_append (runItems_append hassert hclocks) hrelease
  rw [← clknItems_eq_flatMap] at hrun
  exact ⟨_, _, hrun, hholds.word, rfl, rfl⟩

end

/-- Settles O58: a FLATCH at the assertion finds a short frame and keeps it, so the frame is appended to the stale bits. -/
theorem frameAfterAShortFrameLatchesTheStaleBits : Obligations.FrameAfterAShortFrameLatchesTheStaleBits := by
  intro s w hinv hstarted hquiet hsck hcfg _ hshort
  have hfits : ReceiveFits s := ⟨hinv.bits_le, hinv.receive_lt⟩
  obtain ⟨is, u, hrun, hvalue, hempty⟩ := exists_runPseudo_frame (hinv.idle hstarted hquiet) hsck hfits
    (latchFrame_of_keeps hshort.ne hcfg) w
  exact ⟨is, u, hrun, hvalue.trans (levelsValue_take_stale hfits.bits_le hfits.receive_lt w), hempty⟩

end Sys2Proof.Machine
end

section
/-! The Output Updater (43_output_updater.md R120 to R125): what UCMP and UREC answer, the one or seven micro-operations of a run
from UCMP to the return, and the tick, which performs exactly such a run in an idle block. -/

namespace Sys2Proof.Machine

/-! ### The micro-operations of a run -/

section
variable {s : State} {rest : List Micro}

/-- A micro-operation that ends with `pc <- m'` moves its own frame on. -/
theorem exec_micro_of_setPc {m m' : Micro} {v : State} (hctx : s.ctx = m :: rest)
    (heffect : effect m.instr s = setPc m' v) (hv : v.ctx = s.ctx) :
    exec m.instr s = .next { v with ctx := m' :: rest } := by
  rw [exec_microInstr hctx, heffect, setPc, hv, hctx, List.tail_cons]

/-- A micro-operation that ends with `return` removes its own frame and sets `GIE`. -/
theorem exec_micro_of_return {m : Micro} {v : State} (hctx : s.ctx = m :: rest)
    (heffect : effect m.instr s = handlerReturn v) (hv : v.ctx = s.ctx) :
    exec m.instr s = .next { v with ctx := rest, gie := true } := by
  rw [exec_microInstr hctx, heffect, handlerReturn_of_ctx (hv.trans hctx)]

/-- The comparison of UCMP, equal case: the snapshot is taken and the handler returns. -/
theorem exec_ucmp_of_eq (hctx : s.ctx = .ucmp :: rest) (heq : s.value = s.oldValue) :
    exec .ucmp s = .next { s with t := s.value, ctx := rest, gie := true } :=
  exec_micro_of_return (v := { s with t := s.value }) hctx (if_pos heq) rfl

/-- The comparison of UCMP, unequal case: the snapshot is taken and the frame goes on at the writer. -/
theorem exec_ucmp_of_ne (hctx : s.ctx = .ucmp :: rest) (hne : s.value ≠ s.oldValue) :
    exec .ucmp s = .next { s with t := s.value, ctx := .wsave :: rest } :=
  exec_micro_of_setPc (v := { s with t := s.value }) hctx (if_neg hne) rfl

theorem exec_urec (hctx : s.ctx = .urec :: rest) :
    exec .urec s = .next { s with oldValue := s.t, ctx := rest, gie := true } :=
  exec_micro_of_return (v := { s with oldValue := s.t }) hctx rfl rfl

theorem exec_wsave (hctx : s.ctx = .wsave :: rest) :
    exec .wsave s = .next { s with sv := s.gie, ctx := .wcli :: rest } :=
  exec_micro_of_setPc (v := { s with sv := s.gie }) hctx rfl rfl

theorem exec_wcli (hctx : s.ctx = .wcli :: rest) :
    exec .wcli s = .next { s with gie := false, ctx := .whi :: rest } :=
  exec_micro_of_setPc (v := { s with gie := false }) hctx rfl rfl

theorem exec_whi (hctx : s.ctx = .whi :: rest) :
    exec .whi s = .next { s with ocrh := highByte s.t, ctx := .wlo :: rest } :=
  exec_micro_of_setPc (v := { s with ocrh := highByte s.t }) hctx rfl rfl

theorem exec_wlo (hctx : s.ctx = .wlo :: rest) :
    exec .wlo s = .next { s with ocrl := lowByte s.t, ctx := .wrest :: rest } :=
  exec_micro_of_setPc (v := { s with ocrl := lowByte s.t }) hctx rfl rfl

theorem exec_wrest (hctx : s.ctx = .wrest :: rest) :
    exec .wrest s = .next { s with gie := s.sv, ctx := .urec :: rest } :=
  exec_micro_of_setPc (v := { s with gie := s.sv }) hctx rfl rfl

/-! ### A run of the handler -/

theorem runOps_cons_of_exec {i : Instr} {u : State} (h : exec i s = .next u) (is : List Instr) :
    runOps (i :: is) s = runOps is u := by
  simp only [runOps, h]

/-- The five steps of the PWM Register Writer with nothing between them (44_pwm_register_writer.md R130). -/
def writerMicros : List Micro := [.wsave, .wcli, .whi, .wlo, .wrest]

/-- The run of the Output Updater where there is a new word to apply (43_output_updater.md R120). -/
def applyMicros : List Micro := .ucmp :: writerMicros ++ [.urec]

/-- The writer writes both halves of `t`; `GIE`, cleared by WCLI, is as it was. -/
theorem runOps_writerMicros (hctx : s.ctx = .wsave :: rest) :
    runOps (writerMicros.map Micro.instr) s =
      some { s with sv := s.gie, ocrh := highByte s.t, ocrl := lowByte s.t, ctx := .urec :: rest } := by
  calc runOps [.wsave, .wcli, .whi, .wlo, .wrest] s
    _ = runOps [.wcli, .whi, .wlo, .wrest] _ := runOps_cons_of_exec (exec_wsave hctx) _
    _ = runOps [.whi, .wlo, .wrest] _ := runOps_cons_of_exec (exec_wcli rfl) _
    _ = runOps [.wlo, .wrest] _ := runOps_cons_of_exec (exec_whi rfl) _
    _ = runOps [.wrest] _ := runOps_cons_of_exec (exec_wlo rfl) _
    _ = runOps [] _ := runOps_cons_of_exec (exec_wrest rfl) _

/-- The state a run of the Output Updater leaves where there was a new word to apply. -/
def applied (rest : List Micro) (s : State) : State :=
  { s with
    t := s.value, oldValue := s.value, sv := s.gie, ocrh := highByte s.value, ocrl := lowByte s.value
    ctx := rest, gie := true }

@[simp] theorem ocr_applied (rest : List Micro) (s : State) : ocr (applied rest s) = s.value :=
  joinBytes_highByte_lowByte s.value

theorem runOps_applyMicros (hctx : s.ctx = .ucmp :: rest) (hne : s.value ≠ s.oldValue) :
    runOps (applyMicros.map Micro.instr) s = some (applied rest s) := by
  have hrecord : runOps [.urec]
      { s with t := s.value, sv := s.gie, ocrh := highByte s.value, ocrl := lowByte s.value, ctx := .urec :: rest } =
      some (applied rest s) := runOps_cons_of_exec (exec_urec rfl) _
  have hwrite := (runOps_append ..).mpr
    ⟨_, runOps_writerMicros (s := { s with t := s.value, ctx := .wsave :: rest }) rfl, hrecord⟩
  exact (runOps_cons_of_exec (exec_ucmp_of_ne hctx hne) _).trans hwrite

end

/-! ### The statements on UCMP, UREC and their run -/

/-- Settles O34: the two branches of UCMP. -/
theorem ucmpSnapshotsAndCompares : Obligations.UcmpSnapshotsAndCompares := by
  intro s rest hctx
  exact ⟨exec_ucmp_of_eq hctx, exec_ucmp_of_ne hctx⟩

/-- Settles O35: the return of UREC, after the record. -/
theorem urecRecordsTheAppliedWordAndReturns : Obligations.UrecRecordsTheAppliedWordAndReturns := by
  intro s rest hctx
  exact exec_urec hctx

/-- Settles O42: UCMP returns at once, or the writer and UREC follow it and leave the state `applied`. -/
theorem outputUpdaterRunsOneOrSevenMicroOperations : Obligations.OutputUpdaterRunsOneOrSevenMicroOperations := by
  intro s rest hctx
  refine ⟨fun heq => ?_, fun hne => ?_⟩
  · exact runOps_cons_of_exec (exec_ucmp_of_eq hctx heq) _
  · exact ⟨applied rest s, runOps_applyMicros hctx hne, ocr_applied rest s, rfl, rfl, rfl, rfl, rfl⟩

/-! ### settle along a run of micro-operations -/

section
variable {s u v : State} {ms : List Micro}

/-- Pending flags are written by the events and the dispatches (10_state.md R26), by no micro-operation. -/
theorem pending_effect_microInstr (x : Source) (m : Micro) (s : State) : pending x (effect m.instr s) = pending x s := by
  by_contra hchanged
  have hwriters := pending_writers m.instr s x hchanged
  cases m <;> cases x <;> simp [Micro.instr, Source.instr] at hwriters

/-- With no source pending `settle` performs the micro-operations of the running handlers, one after the other. -/
theorem settleFor_of_runOps_micros (hserved : ∀ x : Source, pending x s = false)
    (hrun : runOps (ms.map Micro.instr) s = some u) (hquiet : Quiescent u) {n : Nat} (hn : ms.length ≤ n) :
    settleFor n s = (ms.map Micro.instr, u) := by
  induction ms generalizing s n with
  | nil =>
    obtain rfl : s = u := Option.some.inj hrun
    exact settleFor_of_quiescent hquiet n
  | cons m ms ih =>
    obtain ⟨k, rfl⟩ : ∃ k, n = k + 1 := Nat.exists_eq_add_one.mpr (Nat.lt_of_lt_of_le (Nat.succ_pos _) hn)
    obtain ⟨t, hexec, hrest⟩ := (runOps_cons ..).mp hrun
    obtain ⟨hen, rfl⟩ := (exec_next_iff ..).mp hexec
    rw [enabled_microInstr, atTop_iff] at hen
    obtain ⟨rest, hctx⟩ := hen
    have hchoice : blockChoice s = some m.instr := by
      rw [blockChoice_of_no_dispatchable fun x => dispatchable_of_not_pending (hserved x), hctx]
      rfl
    have hserved' : ∀ x : Source, pending x (effect m.instr s) = false := fun x =>
      (pending_effect_microInstr x m s).trans (hserved x)
    rw [settleFor_succ_of_blockChoice hchoice, ih hserved' hrest (Nat.le_of_succ_le_succ hn)]
    rfl

/-! ### The tick -/

/-- `tick` on an idle block: the overflow, the dispatch, and the whole run of the Output Updater from its entry; the dispatch is
one of the operations `settleBound` counts. -/
theorem runPseudo_tick_of_runOps (h : Idle s) (hrun : runOps (ms.map Micro.instr) (entered .tov s) = some v)
    (hquiet : Quiescent v) (hlength : ms.length ≤ 20) :
    runPseudo .tick s = some (.tov :: .irqTov :: ms.map Micro.instr, v) := by
  have hrequest : effect .tov s = writePending .tov true s := request_true .tov h.started
  have hdispatch : blockChoice (writePending .tov true s) = some .irqTov :=
    blockChoice_of_dispatchable_iff (x := .tov) fun y => by
      simp [dispatchable_iff, h.started, h.gie, h.ctx, h.served]
  have hentered : effect .irqTov (writePending .tov true s) = entered .tov s := takeInterrupt_of_idle h .tov
  have hsettle : settle (effect .tov s) = (.irqTov :: ms.map Micro.instr, v) := by
    rw [hrequest, settle, settleBound, settleFor_succ_of_blockChoice hdispatch, hentered,
      settleFor_of_runOps_micros (s := entered .tov s) h.served hrun hquiet hlength]
  have hend : runItems [] v = some ([], v) := rfl
  rw [← List.append_nil (Instr.irqTov :: ms.map Micro.instr)]
  exact runItems_op_cons (exec_of_enabled rfl) (runItems_settle_cons hsettle hend)

/-- A tick with no new word takes the snapshot and nothing else. -/
theorem runPseudo_tick_of_eq (h : Idle s) (heq : s.value = s.oldValue) :
    runPseudo .tick s = some ([.tov, .irqTov, .ucmp], { s with t := s.value }) := by
  have hidle : Idle { s with t := s.value } := h.congr rfl rfl rfl fun _ => rfl
  have hreturn : { s with t := s.value, ctx := [], gie := true } = { s with t := s.value } := by rw [← h.ctx, ← h.gie]
  have hrun : runOps [.ucmp] (entered .tov s) = some { s with t := s.value } := by
    rw [← hreturn]
    exact runOps_cons_of_exec (exec_ucmp_of_eq (s := entered .tov s) rfl heq) _
  exact runPseudo_tick_of_runOps (ms := [.ucmp]) h hrun hidle.quiescent (by decide)

theorem idle_applied_entered (h : Idle s) : Idle (applied [] (entered .tov s)) where
  started := h.started
  gie := rfl
  ctx := rfl
  served := h.served

/-- A tick with a new word applies and records it. -/
theorem runPseudo_tick_of_ne (h : Idle s) (hne : s.value ≠ s.oldValue) :
    runPseudo .tick s = some (.tov :: .irqTov :: applyMicros.map Micro.instr, applied [] (entered .tov s)) :=
  runPseudo_tick_of_runOps h (runOps_applyMicros (s := entered .tov s) rfl hne) (idle_applied_entered h).quiescent
    (by decide)

end

/-- Settles O56: a quiescent started block is idle. With no new word `OCR` already is `old_value`, which is `value`; with one,
the run of seven holds the one WLO. -/
theorem tickAppliesTheLatchedWordWithOneWriteAtMost : Obligations.TickAppliesTheLatchedWordWithOneWriteAtMost := by
  intro s hinv hstarted hquiet
  have hidle : Idle s := hinv.idle hstarted hquiet
  by_cases heq : s.value = s.oldValue
  · have hocr : s.oldValue = ocr s := hinv.shadow (by simp [hidle.ctx])
    have hquiet' : Quiescent { s with t := s.value } := hquiet
    exact ⟨_, _, runPseudo_tick_of_eq hidle heq, (heq.trans hocr).symm, heq.symm, rfl, hquiet', by rw [if_pos heq]; rfl⟩
  · have hquiet' : Quiescent (applied [] (entered .tov s)) := (idle_applied_entered hidle).quiescent
    exact ⟨_, _, runPseudo_tick_of_ne hidle heq, ocr_applied [] _, rfl, rfl, hquiet', by rw [if_neg heq]; rfl⟩

end Sys2Proof.Machine
end

section
/-! The PWM Register Writer (44_pwm_register_writer.md R130 to R137): what WHI and WLO write; that nothing is dispatched between
WCLI and WREST (R132); that a handler nested between WSAVE and WCLI gives `GIE` back as it was saved (R131); that the lines and
the writer share no state, so that the writer's run is the same with events in it; and that outside the two writes `OCR` is a whole
word (R136). -/

namespace Sys2Proof.Machine

/-! ### The halves of a word -/

theorem highByte_eq_ofNat (w : Word) : highByte w = BitVec.ofNat 8 (w.toNat / 256) := by
  have hlt := (highByte w).isLt
  apply BitVec.eq_of_toNat_eq
  rw [BitVec.toNat_ofNat, ← highByte_toNat, Nat.mod_eq_of_lt hlt]

theorem lowByte_eq_ofNat (w : Word) : lowByte w = BitVec.ofNat 8 w.toNat := by
  apply BitVec.eq_of_toNat_eq
  rw [lowByte_toNat, BitVec.toNat_ofNat]

/-- Settles O38: WHI replaces the high byte of `OCR` and leaves the low one. -/
theorem whiWritesTheHighHalf : Obligations.WhiWritesTheHighHalf := by
  intro s rest hctx
  refine ⟨_, exec_whi hctx, by rw [highByte_eq_ofNat], ?_⟩
  have hlow := s.ocrl.isLt
  simp only [ocr_toNat, highByte_toNat]
  omega

/-- Settles O39: by either premise the high byte is that of `t`, and with the low one the word is complete. -/
theorem wloWritesTheLowHalf : Obligations.WloWritesTheLowHalf := by
  intro s rest hctx
  refine ⟨_, exec_wlo hctx, by rw [lowByte_eq_ofNat], fun hpremise => ?_⟩
  have hhigh : s.ocrh = highByte s.t := by
    obtain hhalf | hinv := hpremise
    · exact BitVec.eq_of_toNat_eq (by rw [highByte_toNat, hhalf])
    · obtain ⟨hhigh, -⟩ := hinv.torn (by simp [hctx])
      exact hhigh
  simp [ocr, hhigh]

/-- Settles O40: WREST, as a step at the top of `ctx`. -/
theorem wrestRestoresTheSavedEnable : Obligations.WrestRestoresTheSavedEnable := by
  intro s rest hctx
  exact exec_wrest hctx

/-! ### What an operation needs and leaves -/

/-- The state with the pins and the pending flags erased: what is left no event changes (40_environment_events.md R84). -/
def eraseLines (s : State) : State :=
  { s with sdi := false, sck := false, csN := false, pfSck := false, pfCs := false, pfTov := false }

/-- `u` is `s` but for the pins and the pending flags. -/
def SameButLines (s u : State) : Prop := eraseLines u = eraseLines s

section
variable {s u v : State} {i : Instr} {x : Source}

theorem SameButLines.trans (h : SameButLines s u) (h' : SameButLines u v) : SameButLines s v := Eq.trans h' h

theorem SameButLines.oldValue (h : SameButLines s u) : u.oldValue = s.oldValue := (congrArg State.oldValue h :)

theorem SameButLines.t (h : SameButLines s u) : u.t = s.t := (congrArg State.t h :)

theorem SameButLines.sv (h : SameButLines s u) : u.sv = s.sv := (congrArg State.sv h :)

theorem SameButLines.ocr (h : SameButLines s u) : ocr u = ocr s := (congrArg Machine.ocr h :)

theorem SameButLines.gie (h : SameButLines s u) : u.gie = s.gie := (congrArg State.gie h :)

theorem SameButLines.started (h : SameButLines s u) : u.started = s.started := (congrArg State.started h :)

theorem SameButLines.ctx (h : SameButLines s u) : u.ctx = s.ctx := (congrArg State.ctx h :)

theorem sameButLines_of_event (hi : eventLine i ≠ none) (s : State) : SameButLines s (effect i s) := by
  cases i with
  | sdi _ | sck _ | csn _ | tov => rfl
  | _ => exact absurd rfl hi

/-- Condition (b) of 60_exceptions.md R156. -/
theorem gie_of_enabled_sourceInstr (hen : enabled x.instr s = true) : s.gie = true := by
  rw [enabled_sourceInstr] at hen
  obtain ⟨-, hgie, -⟩ := (dispatchable_iff x s).mp (dispatchable_of_irqEnabled hen)
  exact hgie

/-- The micro-operation that runs is the one at the top of `ctx`. -/
theorem ctx_of_enabled_microInstr {m : Micro} (hen : enabled m.instr s = true) : ∃ rest, s.ctx = m :: rest := by
  rwa [enabled_microInstr, atTop_iff] at hen

/-- A pending flag stays set until its source is dispatched or the block is reset (60_exceptions.md R154). -/
theorem pending_effect_of_pending (hdispatch : i ≠ x.instr) (hreset : i ≠ .reset) (h : pending x s = true) :
    pending x (effect i s) = true := by
  by_cases hsame : pending x (effect i s) = pending x s
  · rw [hsame, h]
  obtain ⟨rfl, l, rfl⟩ | ⟨rfl, l, rfl⟩ | ⟨rfl, rfl⟩ | rfl | rfl := pending_writers i s x hsame
  · have hflag : s.pfSck = true := h
    simp [effect, pending, hflag]
  · have hflag : s.pfCs = true := h
    simp [effect, pending, hflag]
  · have hflag : s.pfTov = true := h
    simp [effect, pending, hflag]
  · exact absurd rfl hdispatch
  · exact absurd rfl hreset

end

/-! ### From WCLI to WREST -/

/-- The block is started, `GIE` is 0, and the running handler is the writer between WCLI and WREST. -/
structure InCriticalSection (s : State) : Prop where
  started : s.started = true
  gie : s.gie = false
  top : ∃ m rest, s.ctx = m :: rest ∧ Critical m

section
variable {s u v w : State} {i : Instr}

/-- `InCriticalSection` reads neither a pin nor a pending flag. -/
theorem InCriticalSection.congr (h : InCriticalSection s) (hsame : SameButLines s u) : InCriticalSection u where
  started := hsame.started.trans h.started
  gie := hsame.gie.trans h.gie
  top := hsame.ctx ▸ h.top

theorem InCriticalSection.not_enabled_sourceInstr (h : InCriticalSection s) (x : Source) : enabled x.instr s ≠ true := by
  intro hen
  exact absurd (gie_of_enabled_sourceInstr hen) (by simp [h.gie])

/-- A micro-operation that can run in the critical section is one of it. -/
theorem InCriticalSection.critical_of_enabled (h : InCriticalSection s) {m : Micro} (hen : enabled m.instr s = true) :
    Critical m := by
  obtain ⟨k, rest, hctx, hcritical⟩ := h.top
  obtain ⟨rest', hctx'⟩ := ctx_of_enabled_microInstr hen
  obtain ⟨rfl, -⟩ := List.cons.inj (hctx.symm.trans hctx')
  exact hcritical

/-- Nothing but WREST and RESET leaves the critical section: what returns or enables is not the top frame, and what dispatches
needs `GIE`. -/
theorem inCriticalSection_exec (h : InCriticalSection s) (hwrest : i ≠ .wrest) (hreset : i ≠ .reset)
    (hexec : exec i s = .next u) : InCriticalSection u := by
  obtain ⟨hen, rfl⟩ := (exec_next_iff i s u).mp hexec
  have hforeign : ∀ m : Micro, ¬ Critical m → enabled m.instr s ≠ true := fun m hm hrun =>
    hm (h.critical_of_enabled hrun)
  cases i with
  | reset => exact absurd rfl hreset
  | wrest => exact absurd rfl hwrest
  | start => simp [enabled, h.started] at hen
  | sdi l => exact h.congr (sameButLines_of_event (i := .sdi l) (by simp [eventLine]) s)
  | sck l => exact h.congr (sameButLines_of_event (i := .sck l) (by simp [eventLine]) s)
  | csn l => exact h.congr (sameButLines_of_event (i := .csn l) (by simp [eventLine]) s)
  | tov => exact h.congr (sameButLines_of_event (i := .tov) (by simp [eventLine]) s)
  | irqSck => exact absurd hen (h.not_enabled_sourceInstr .sck)
  | irqCs => exact absurd hen (h.not_enabled_sourceInstr .cs)
  | irqTov => exact absurd hen (h.not_enabled_sourceInstr .tov)
  | whi => exact ⟨h.started, h.gie, .wlo, _, rfl, .inr (.inl rfl)⟩
  | wlo => exact ⟨h.started, h.gie, .wrest, _, rfl, .inr (.inr rfl)⟩
  | rxbit => exact absurd hen (hforeign .rxbit (by simp [Critical]))
  | flatch => exact absurd hen (hforeign .flatch (by simp [Critical]))
  | ucmp => exact absurd hen (hforeign .ucmp (by simp [Critical]))
  | wsave => exact absurd hen (hforeign .wsave (by simp [Critical]))
  | wcli => exact absurd hen (hforeign .wcli (by simp [Critical]))
  | urec => exact absurd hen (hforeign .urec (by simp [Critical]))

/-- In the critical section no pending flag is lost, there being no dispatch. -/
theorem InCriticalSection.pending_of_exec (h : InCriticalSection s) (hreset : i ≠ .reset) (hexec : exec i s = .next u)
    {x : Source} (hpending : pending x s = true) : pending x u = true := by
  obtain ⟨hen, rfl⟩ := (exec_next_iff i s u).mp hexec
  refine pending_effect_of_pending ?_ hreset hpending
  rintro rfl
  exact h.not_enabled_sourceInstr x hen

/-- Along a run with no WREST and no RESET. -/
theorem inCriticalSection_runOps {is : List Instr} (h : InCriticalSection s) (his : ∀ i ∈ is, i ≠ .wrest ∧ i ≠ .reset)
    (hrun : runOps is s = some u) : InCriticalSection u ∧ ∀ x : Source, pending x s = true → pending x u = true := by
  induction is generalizing s with
  | nil =>
    obtain rfl : s = u := Option.some.inj hrun
    exact ⟨h, fun _ => id⟩
  | cons i is ih =>
    obtain ⟨t, hexec, hrest⟩ := (runOps_cons i is s u).mp hrun
    obtain ⟨⟨hwrest, hreset⟩, his⟩ := List.forall_mem_cons.mp his
    obtain ⟨hcritical, hkept⟩ := ih (inCriticalSection_exec h hwrest hreset hexec) his hrest
    exact ⟨hcritical, fun x hpending => hkept x (h.pending_of_exec hreset hexec hpending)⟩

end

/-- Settles O37: WCLI enters the critical section, and both parts of the run stay in it. -/
theorem wcliDisablesInterrupts : Obligations.WcliDisablesInterrupts := by
  intro s rest hctx
  refine ⟨_, exec_wcli hctx, rfl, fun hstarted is js v w hops his hjs x => ?_⟩
  obtain ⟨hopsi, hopsj⟩ := List.forall_mem_append.mp hops
  have hentered : InCriticalSection { s with gie := false, ctx := .whi :: rest } :=
    ⟨hstarted, rfl, .whi, rest, rfl, .inl rfl⟩
  obtain ⟨hv, -⟩ := inCriticalSection_runOps hentered hopsi his
  obtain ⟨hw, hkept⟩ := inCriticalSection_runOps hv hopsj hjs
  refine ⟨fun z hexec => ?_, hkept x⟩
  obtain ⟨hen, -⟩ := (exec_next_iff ..).mp hexec
  exact hw.not_enabled_sourceInstr x hen

/-! ### Handlers nested between WSAVE and WCLI -/

/-- The handlers below are as in `base` and the saved enable is `g`; where no handler runs above `base` `GIE` is `g` too, and
one can only have been dispatched above it if `g` is 1 (60_exceptions.md R156). -/
structure NestedOn (base : List Micro) (g : Level) (s : State) : Prop where
  saved : s.sv = g
  suffix : base <:+ s.ctx
  enabled_at : s.ctx = base → s.gie = g
  enabled_above : s.ctx ≠ base → g = true

section
variable {s u : State} {base : List Micro} {g : Level} {i : Instr}

theorem NestedOn.congr (h : NestedOn base g s) (hsv : u.sv = s.sv) (hctx : u.ctx = s.ctx) (hgie : u.gie = s.gie) :
    NestedOn base g u where
  saved := hsv.trans h.saved
  suffix := hctx ▸ h.suffix
  enabled_at hat := hgie.trans (h.enabled_at (hctx.symm.trans hat))
  enabled_above hne := h.enabled_above (hctx ▸ hne)

/-- A dispatch finds `GIE` at 1, so `g` is 1. -/
theorem nestedOn_takeInterrupt (h : NestedOn base g s) (hgie : s.gie = true) (x : Source) :
    NestedOn base g (takeInterrupt x s) where
  saved := (takeInterrupt_sv x s).trans h.saved
  suffix := (takeInterrupt_ctx x s) ▸ h.suffix.trans (List.suffix_cons ..)
  enabled_at hat := by
    have hlength := h.suffix.length_le
    rw [← hat, takeInterrupt_ctx, List.length_cons] at hlength
    omega
  enabled_above _ := by
    by_cases hctx : s.ctx = base
    · exact (h.enabled_at hctx).symm.trans hgie
    · exact h.enabled_above hctx

/-- A handler above `base` returns: `GIE` becomes 1, which is `g`. -/
theorem nestedOn_handlerReturn (h : NestedOn base g s) (hctx : s.ctx ≠ base) : NestedOn base g (handlerReturn s) where
  saved := h.saved
  suffix := by
    obtain ⟨above, habove⟩ := h.suffix
    cases above with
    | nil => exact absurd habove.symm hctx
    | cons m above => exact ⟨above, by simp [← habove]⟩
  enabled_at _ := (h.enabled_above hctx).symm
  enabled_above _ := h.enabled_above hctx

/-- Events, and the dispatch and the run of the Bit Receiver and of the Frame Latch: `m`, a frame of the Output Updater, is none
of theirs, so what returns is above it. -/
theorem nestedOn_exec {m : Micro} {rest : List Micro} (h : NestedOn (m :: rest) g s) (hm : m.handler = .tov)
    (hi : eventLine i ≠ none ∨ i ∈ [.irqSck, .irqCs, .rxbit, .flatch]) (hexec : exec i s = .next u) :
    NestedOn (m :: rest) g u := by
  obtain ⟨hen, rfl⟩ := (exec_next_iff i s u).mp hexec
  have habove : ∀ k : Micro, k.handler ≠ .tov → enabled k.instr s = true → s.ctx ≠ m :: rest := by
    intro k hk hrun hbase
    obtain ⟨rest', hctx⟩ := ctx_of_enabled_microInstr hrun
    obtain ⟨rfl, -⟩ := List.cons.inj (hctx.symm.trans hbase)
    exact hk hm
  obtain hevent | hblock := hi
  · have hsame := sameButLines_of_event hevent s
    exact h.congr hsame.sv hsame.ctx hsame.gie
  · simp only [List.mem_cons, List.not_mem_nil, or_false] at hblock
    obtain rfl | rfl | rfl | rfl := hblock
    · exact nestedOn_takeInterrupt h (gie_of_enabled_sourceInstr (x := .sck) hen) .sck
    · exact nestedOn_takeInterrupt h (gie_of_enabled_sourceInstr (x := .cs) hen) .cs
    · have hbit : NestedOn (m :: rest) g (receiveBit s) := h.congr (by simp) (by simp) (by simp)
      exact nestedOn_handlerReturn hbit (receiveBit_ctx s ▸ habove .rxbit (by decide) hen)
    · have hlatch : NestedOn (m :: rest) g (latchFrame s) := h.congr (by simp) (by simp) (by simp)
      exact nestedOn_handlerReturn hlatch (latchFrame_ctx s ▸ habove .flatch (by decide) hen)

theorem nestedOn_runOps {m : Micro} {rest : List Micro} {is : List Instr} (h : NestedOn (m :: rest) g s)
    (hm : m.handler = .tov) (his : ∀ i ∈ is, eventLine i ≠ none ∨ i ∈ [.irqSck, .irqCs, .rxbit, .flatch])
    (hrun : runOps is s = some u) : NestedOn (m :: rest) g u := by
  induction is generalizing s with
  | nil =>
    obtain rfl : s = u := Option.some.inj hrun
    exact h
  | cons i is ih =>
    obtain ⟨t, hexec, hrest⟩ := (runOps_cons i is s u).mp hrun
    obtain ⟨hi, his⟩ := List.forall_mem_cons.mp his
    exact ih (nestedOn_exec h hm hi hexec) his hrest

end

/-- Settles O36: right after WSAVE no handler runs above the frame and `GIE` is what was saved. -/
theorem wsaveSavesTheEnable : Obligations.WsaveSavesTheEnable := by
  intro s rest hctx
  refine ⟨_, exec_wsave hctx, rfl, fun hinv => ?_, fun is v his hrun hback => ?_⟩
  · exact (hinv.updaterAt hctx rfl).gie_eq_nesting (by simp [Critical])
  · have hsaved : NestedOn (.wcli :: rest) s.gie { s with sv := s.gie, ctx := .wcli :: rest } :=
      ⟨rfl, List.suffix_rfl, fun _ => rfl, fun hne => absurd rfl hne⟩
    have hnested := nestedOn_runOps hsaved rfl his hrun
    exact ⟨hnested.enabled_at hback, hnested.saved⟩

/-! ### Events during the writer's run -/

section
variable {s u : State} {i : Instr} {m : Micro}

/-- No step of the writer reads or writes what an event writes, and the other way round. -/
theorem effect_writer_event_comm (hi : eventLine i ≠ none) (hm : m ∈ writerMicros) (s : State) :
    effect m.instr (effect i s) = effect i (effect m.instr s) := by
  simp only [writerMicros, List.mem_cons, List.not_mem_nil, or_false] at hm
  cases i with
  | sdi _ | sck _ | csn _ | tov => obtain rfl | rfl | rfl | rfl | rfl := hm <;> rfl
  | _ => exact absurd rfl hi

theorem exec_writer_after_event (hi : eventLine i ≠ none) (hm : m ∈ writerMicros) (hexec : exec m.instr s = .next u) :
    exec m.instr (effect i s) = .next (effect i u) := by
  obtain ⟨hen, rfl⟩ := (exec_next_iff ..).mp hexec
  obtain ⟨rest, hctx⟩ := ctx_of_enabled_microInstr hen
  rw [← effect_writer_event_comm hi hm]
  exact exec_microInstr ((sameButLines_of_event hi s).ctx.trans hctx)

/-- Events before a step of the writer may as well come after it. -/
theorem runOps_events_writer {es : List Instr} (hes : OnlyEvents es) (hm : m ∈ writerMicros)
    (hexec : exec m.instr s = .next u) (js : List Instr) :
    runOps (es ++ m.instr :: js) s = runOps (es ++ js) u := by
  induction es generalizing s u with
  | nil => exact runOps_cons_of_exec hexec js
  | cons i es ih =>
    obtain ⟨hi, hes⟩ := List.forall_mem_cons.mp hes
    rw [List.cons_append, List.cons_append, runOps_cons_of_exec (exec_of_event hi s),
      runOps_cons_of_exec (exec_of_event hi u)]
    exact ih hes (exec_writer_after_event hi hm hexec)

/-- Micro-operations with operations before each of them. -/
def interleaved (ps : List (List Instr × Micro)) : List Instr := ps.flatMap fun p => p.1 ++ [p.2.instr]

/-- Steps of the writer with events before each of them: the steps, and then all the events. -/
theorem runOps_interleaved {ps : List (List Instr × Micro)} (hps : ∀ p ∈ ps, OnlyEvents p.1 ∧ p.2 ∈ writerMicros)
    {es : List Instr} (hes : OnlyEvents es) (hrun : runOps (ps.map fun p => p.2.instr) s = some u) :
    runOps (es ++ interleaved ps) s = runOps (es ++ ps.flatMap Prod.fst) u := by
  induction ps generalizing es s with
  | nil =>
    obtain rfl : s = u := Option.some.inj hrun
    rfl
  | cons p ps ih =>
    obtain ⟨t, hexec, hrest⟩ := (runOps_cons ..).mp hrun
    obtain ⟨⟨hevents, hwriter⟩, hps⟩ := List.forall_mem_cons.mp hps
    have hboth : OnlyEvents (es ++ p.1) := List.forall_mem_append.mpr ⟨hes, hevents⟩
    calc runOps (es ++ interleaved (p :: ps)) s
      _ = runOps ((es ++ p.1) ++ p.2.instr :: interleaved ps) s := by simp [interleaved]
      _ = runOps ((es ++ p.1) ++ interleaved ps) t := runOps_events_writer hboth hwriter hexec _
      _ = runOps ((es ++ p.1) ++ ps.flatMap Prod.fst) u := ih hps hboth hrest
      _ = runOps (es ++ (p :: ps).flatMap Prod.fst) u := by simp

/-- Events run in every state and change nothing but the lines. -/
theorem exists_runOps_events {es : List Instr} (hes : OnlyEvents es) (s : State) :
    ∃ u : State, runOps es s = some u ∧ SameButLines s u := by
  induction es generalizing s with
  | nil => exact ⟨s, rfl, rfl⟩
  | cons i es ih =>
    obtain ⟨hi, hes⟩ := List.forall_mem_cons.mp hes
    obtain ⟨u, hrun, hsame⟩ := ih hes (effect i s)
    exact ⟨u, (runOps_cons_of_exec (exec_of_event hi s) es).trans hrun, (sameButLines_of_event hi s).trans hsame⟩

/-- Events among the steps of the writer change nothing of what the steps alone leave, but for the lines. -/
theorem exists_runOps_interleaved {ps : List (List Instr × Micro)} (hps : ∀ p ∈ ps, OnlyEvents p.1 ∧ p.2 ∈ writerMicros)
    (hrun : runOps (ps.map fun p => p.2.instr) s = some u) :
    ∃ v : State, runOps (interleaved ps) s = some v ∧ SameButLines u v := by
  have hevents : OnlyEvents (ps.flatMap Prod.fst) := by
    intro i hi
    obtain ⟨p, hp, hip⟩ := List.mem_flatMap.mp hi
    obtain ⟨honly, -⟩ := hps p hp
    exact honly i hip
  obtain ⟨v, hv, hsame⟩ := exists_runOps_events hevents u
  have hdeferred : runOps (interleaved ps) s = runOps (ps.flatMap Prod.fst) u :=
    runOps_interleaved (es := []) hps nofun hrun
  exact ⟨v, hdeferred.trans hv, hsame⟩

end

/-- Settles O41: the five steps alone leave `t` in `OCR` and `GIE` as it was, and the events among them touch none of what is
claimed. -/
theorem writerAppliesTheWordAndRestoresTheEnable : Obligations.WriterAppliesTheWordAndRestoresTheEnable := by
  intro s rest a b c d hctx ha hb hc hd
  have hnone : OnlyEvents [] := nofun
  have hps : ∀ p ∈ [([], Micro.wsave), (a, .wcli), (b, .whi), (c, .wlo), (d, .wrest)],
      OnlyEvents p.1 ∧ p.2 ∈ writerMicros := by
    simp [writerMicros, hnone, ha, hb, hc, hd]
  obtain ⟨u, hrun, hsame⟩ := exists_runOps_interleaved hps (runOps_writerMicros hctx)
  have hocr : ocr u = s.t := hsame.ocr.trans (joinBytes_highByte_lowByte s.t)
  refine ⟨u, ?_, hsame.gie, hocr, hsame.t, hsame.oldValue, hsame.ctx⟩
  rw [← hrun]
  simp [interleaved, Micro.instr]

/-! ### Whole words in the compare register -/

section
variable {s t u : State} {i : Instr}

/-- A micro-operation leaves the frames below its own. -/
theorem tail_subset_ctx_effect_microInstr (m : Micro) (s : State) : s.ctx.tail ⊆ (effect m.instr s).ctx := by
  cases m with
  | rxbit | flatch | urec => simp [Micro.instr, effect]
  | ucmp =>
    have hctx : (effect .ucmp s).ctx = if s.value = s.oldValue then s.ctx.tail else .wsave :: s.ctx.tail :=
      compareValue_ctx s
    rw [Micro.instr, hctx]
    split
    · exact List.Subset.refl _
    · exact List.subset_cons_self ..
  | wsave | wcli | whi | wlo | wrest => exact List.subset_cons_self ..

/-- A frame stands at its micro-operation until that one runs, or a RESET comes. -/
theorem mem_ctx_of_exec {m : Micro} (hm : m ∈ s.ctx) (hi : i ≠ m.instr) (hreset : i ≠ .reset)
    (hexec : exec i s = .next u) : m ∈ u.ctx := by
  obtain ⟨hen, rfl⟩ := (exec_next_iff i s u).mp hexec
  have hmicro : ∀ k : Micro, i = k.instr → m ∈ (effect i s).ctx := by
    rintro k rfl
    obtain ⟨rest, hctx⟩ := ctx_of_enabled_microInstr hen
    have hne : m ≠ k := by rintro rfl; exact hi rfl
    have hbelow : m ∈ s.ctx.tail := by simpa [hctx, hne] using hm
    exact tail_subset_ctx_effect_microInstr k s hbelow
  cases i with
  | reset => exact absurd rfl hreset
  | start => exact hm
  | sdi _ | sck _ | csn _ | tov => simpa [effect] using hm
  | irqSck | irqCs | irqTov => simp [effect, hm]
  | rxbit => exact hmicro .rxbit rfl
  | flatch => exact hmicro .flatch rfl
  | ucmp => exact hmicro .ucmp rfl
  | wsave => exact hmicro .wsave rfl
  | wcli => exact hmicro .wcli rfl
  | whi => exact hmicro .whi rfl
  | wlo => exact hmicro .wlo rfl
  | wrest => exact hmicro .wrest rfl
  | urec => exact hmicro .urec rfl

/-- The two cells keep what they hold but for WHI, WLO and RESET (10_state.md R26). -/
theorem ocr_effect_of_not_writer (hi : ¬ (i = .whi ∨ i = .wlo ∨ i = .reset)) (s : State) :
    ocr (effect i s) = ocr s := by
  have hhigh : (effect i s).ocrh = s.ocrh := not_imp_comm.mp (ocrh_writers i s) fun h => hi (h.imp_right .inr)
  have hlow : (effect i s).ocrl = s.ocrl := not_imp_comm.mp (ocrl_writers i s) fun h => hi (.inr h)
  rw [ocr, hhigh, hlow, ocr]

/-- WLO completes the word: in a state of the invariant the high half is in place. -/
theorem ocr_of_exec_wlo (h : Inv s) (hexec : exec .wlo s = .next u) : ocr u = s.t := by
  obtain ⟨hen, -⟩ := (exec_next_iff ..).mp hexec
  obtain ⟨rest, hctx⟩ := ctx_of_enabled_microInstr (m := .wlo) hen
  obtain ⟨v, hv, -, hword⟩ := wloWritesTheLowHalf s rest hctx
  obtain rfl : v = u := Host.Outcome.next.inj (hv.symm.trans hexec)
  exact hword (.inr h)

/-- Between a WHI and its WLO, and only there, a frame stands at WLO. Where none does after an operation, `OCR` is as it was, the
reset value or the word just completed. -/
theorem ocr_of_exec (h : Inv s) (hexec : exec i s = .next u) (hwhole : Micro.wlo ∉ u.ctx) :
    (Micro.wlo ∉ s.ctx ∧ ocr u = ocr s) ∨ ocr u = 0 ∨ (i = .wlo ∧ ocr u = s.t) := by
  by_cases hi : i = .whi ∨ i = .wlo ∨ i = .reset
  · obtain rfl | rfl | rfl := hi
    · obtain ⟨-, rfl⟩ := (exec_next_iff ..).mp hexec
      exact absurd List.mem_cons_self hwhole
    · exact .inr (.inr ⟨rfl, ocr_of_exec_wlo h hexec⟩)
    · obtain ⟨-, rfl⟩ := (exec_next_iff ..).mp hexec
      exact .inr (.inl joinBytes_zero)
  · obtain ⟨-, hwlo, hreset⟩ := by simpa only [not_or] using hi
    have hbefore : Micro.wlo ∉ s.ctx := fun hmem => hwhole (mem_ctx_of_exec hmem hwlo hreset hexec)
    obtain ⟨-, rfl⟩ := (exec_next_iff i s u).mp hexec
    exact .inl ⟨hbefore, ocr_effect_of_not_writer hi s⟩

/-- The words a run writes are the one its first operation completes, if any, and those the rest of the run writes. -/
theorem mem_wordsWritten_cons (h : exec i s = .next t) (is : List Instr) (w : Word) :
    w ∈ wordsWritten (i :: is) s ↔ (i = .wlo ∧ w = s.t) ∨ w ∈ wordsWritten is t := by
  simp only [wordsWritten, h, List.mem_append]
  split <;> simp_all

/-- From any state of the invariant: `OCR` after a run is, unless a frame stands at WLO, `OCR` before it, the reset value or a
word the run wrote. -/
theorem ocr_of_runOps {is : List Instr} (h : Inv s) (hrun : runOps is s = some u) (hwhole : Micro.wlo ∉ u.ctx) :
    (Micro.wlo ∉ s.ctx ∧ ocr u = ocr s) ∨ ocr u = 0 ∨ ocr u ∈ wordsWritten is s := by
  induction is generalizing s with
  | nil =>
    obtain rfl : s = u := Option.some.inj hrun
    exact .inl ⟨hwhole, rfl⟩
  | cons i is ih =>
    obtain ⟨t, hexec, hrest⟩ := (runOps_cons i is s u).mp hrun
    rw [mem_wordsWritten_cons hexec]
    obtain ⟨hbefore, hkept⟩ | hzero | hwritten := ih (inv_exec h hexec) hrest
    · rw [hkept]
      exact (ocr_of_exec h hexec hbefore).imp_right (.imp_right .inl)
    · exact .inr (.inl hzero)
    · exact .inr (.inr (.inr hwritten))

end

/-- Settles O52: with `GIE` at 1, as at every dispatch, no frame is in the critical section, so none stands at WLO. -/
theorem interruptsSeeOnlyWholeWordsInTheCompareRegister :
    Obligations.InterruptsSeeOnlyWholeWordsInTheCompareRegister := by
  intro cfg is u hrun
  have hinv : Inv u := inv_runOps_powerOn hrun
  constructor
  · rintro ⟨m, hm, hcritical⟩
    exact Bool.eq_false_iff.mpr fun hgie => hinv.not_critical_of_gie hgie m hm hcritical
  · intro x v hexec
    obtain ⟨hen, -⟩ := (exec_next_iff ..).mp hexec
    have hwhole : Micro.wlo ∉ u.ctx := fun hmem =>
      hinv.not_critical_of_gie (gie_of_enabled_sourceInstr hen) _ hmem (.inr (.inl rfl))
    obtain ⟨-, hkept⟩ | hword := ocr_of_runOps (inv_powerOn cfg) hrun hwhole
    · exact .inl (hkept.trans joinBytes_zero)
    · exact hword

end Sys2Proof.Machine
end

section
/-! Dispatch and return (60_exceptions.md R152 to R163): what IRQ answers and to which of the sources, who clears a pending flag,
how a handler ends, and the block's own next operation: there is none exactly in a quiescent state. -/

namespace Sys2Proof.Machine

/-! ### IRQ -/

section
variable {s u : State} {x y : Source}

theorem effect_sourceInstr (x : Source) (s : State) : effect x.instr s = takeInterrupt x s := by cases x <;> rfl

/-- A dispatch in one record update (60_exceptions.md R156). -/
theorem takeInterrupt_eq (x : Source) (s : State) :
    takeInterrupt x s =
      { writePending x false s with ctx := x.entry :: s.ctx, gie := if s.cfg.nesting = true then s.gie else false } := by
  cases hn : s.cfg.nesting <;> simp [takeInterrupt, pushFrame, hn]

/-- A pending flag read after a dispatch. -/
@[simp] theorem pending_takeInterrupt (x y : Source) (s : State) :
    pending x (takeInterrupt y s) = if x = y then false else pending x s := by
  rw [takeInterrupt_eq, ← pending_writePending]
  cases x <;> rfl

theorem exec_sourceInstr_of_irqEnabled (h : irqEnabled x s = true) : exec x.instr s = .next (takeInterrupt x s) := by
  rw [← effect_sourceInstr]
  exact exec_of_enabled ((enabled_sourceInstr x s).trans h)

theorem irqEnabledBySpec_of_exec (h : exec x.instr s = .next u) : IrqEnabledBySpec x s := by
  obtain ⟨hen, -⟩ := (exec_next_iff ..).mp h
  rwa [enabled_sourceInstr, irqEnabled_iff] at hen

/-- Condition (d) of 60_exceptions.md R156. -/
theorem exec_sourceInstr_of_running (h : ∃ m ∈ s.ctx, m.handler = x) :
    exec x.instr s = .refused (.notEnabled s.pos x.instr) := by
  apply exec_of_not_enabled
  rw [enabled_sourceInstr, Bool.eq_false_iff, ne_eq, irqEnabled_iff]
  rintro ⟨-, -, ⟨-, hnoframe⟩, -⟩
  obtain ⟨m, hm, hx⟩ := h
  exact hnoframe m hm hx

/-! ### Arbitration -/

/-- A permutation lists every source, each at its own place, so of two sources one comes first. -/
theorem comesBefore_or_comesBefore {p : Prio} (hp : p ≠ .any) (hne : x ≠ y) : ComesBefore p x y ∨ ComesBefore p y x := by
  have hplace : (prioOrder p).idxOf x ≠ (prioOrder p).idxOf y := fun h =>
    hne ((List.idxOf_inj (mem_prioOrder p x)).mp h)
  exact hplace.lt_or_gt.imp (⟨hp, ·⟩) (⟨hp, ·⟩)

theorem irqEnabled_of_prio_any (hany : s.cfg.prio = .any) (h : dispatchable x s = true) : irqEnabled x s = true := by
  have hprio : prioAllows x s = true := by simp [prioAllows, earlierSources, hany]
  rw [irqEnabled, h, hprio, Bool.and_self]

/-- The first dispatchable source in the order of `PRIO`. -/
theorem exists_find?_of_dispatchable (h : dispatchable x s = true) :
    ∃ y : Source, (prioOrder s.cfg.prio).find? (fun z => dispatchable z s) = some y :=
  Option.isSome_iff_exists.mp (List.find?_isSome.mpr ⟨x, mem_prioOrder _ x, h⟩)

end

/-! ### The block's own operations -/

section
variable {s : State} {x : Source}

/-- The operations of the block are the dispatches and the micro-operations (30_encoding.md R66). -/
theorem agent_eq_blk_iff (i : Instr) : i.agent = .blk ↔ (∃ x : Source, i = x.instr) ∨ ∃ m : Micro, i = m.instr := by
  constructor
  · cases i with
    | reset | start | sdi _ | sck _ | csn _ | tov => exact nofun
    | irqSck => exact fun _ => .inl ⟨.sck, rfl⟩
    | irqCs => exact fun _ => .inl ⟨.cs, rfl⟩
    | irqTov => exact fun _ => .inl ⟨.tov, rfl⟩
    | rxbit => exact fun _ => .inr ⟨.rxbit, rfl⟩
    | flatch => exact fun _ => .inr ⟨.flatch, rfl⟩
    | ucmp => exact fun _ => .inr ⟨.ucmp, rfl⟩
    | wsave => exact fun _ => .inr ⟨.wsave, rfl⟩
    | wcli => exact fun _ => .inr ⟨.wcli, rfl⟩
    | whi => exact fun _ => .inr ⟨.whi, rfl⟩
    | wlo => exact fun _ => .inr ⟨.wlo, rfl⟩
    | wrest => exact fun _ => .inr ⟨.wrest, rfl⟩
    | urec => exact fun _ => .inr ⟨.urec, rfl⟩
  · rintro (⟨x, rfl⟩ | ⟨m, rfl⟩)
    · cases x <;> rfl
    · cases m <;> rfl

theorem blockChoice_of_find? (h : (prioOrder s.cfg.prio).find? (fun y => dispatchable y s) = some x) :
    blockChoice s = some x.instr := by
  simp only [blockChoice, h]

/-- The block's own next operation is a dispatch that is possible, or the micro-operation at the top of `ctx`. -/
theorem blockChoice_cases {i : Instr} (h : blockChoice s = some i) :
    (∃ x : Source, i = x.instr ∧ dispatchable x s = true) ∨ ∃ m rest, i = m.instr ∧ s.ctx = m :: rest := by
  have hen := enabled_of_blockChoice h
  unfold blockChoice at h
  split at h
  · next x hx =>
    cases h
    rw [enabled_sourceInstr] at hen
    exact .inl ⟨x, rfl, dispatchable_of_irqEnabled hen⟩
  · obtain ⟨m, -, rfl⟩ := Option.map_eq_some_iff.mp h
    obtain ⟨rest, hctx⟩ := ctx_of_enabled_microInstr hen
    exact .inr ⟨m, rest, rfl, hctx⟩

theorem agent_of_blockChoice {i : Instr} (h : blockChoice s = some i) : i.agent = .blk := by
  obtain ⟨x, rfl, -⟩ | ⟨m, -, rfl, -⟩ := blockChoice_cases h
  · exact (agent_eq_blk_iff _).mpr (.inl ⟨x, rfl⟩)
  · exact (agent_eq_blk_iff _).mpr (.inr ⟨m, rfl⟩)

/-- The block stops exactly where it is quiescent (60_exceptions.md R163). -/
theorem blockChoice_eq_none_iff (s : State) : blockChoice s = none ↔ Quiescent s := by
  constructor
  · intro h
    have hnone : ∀ x : Source, dispatchable x s = false := fun x => Bool.eq_false_iff.mpr fun hx => by
      obtain ⟨y, hy⟩ := exists_find?_of_dispatchable hx
      exact absurd (h.symm.trans (blockChoice_of_find? hy)) (by simp)
    rw [blockChoice_of_no_dispatchable hnone] at h
    exact ⟨by simpa using h, hnone⟩
  · rintro ⟨hctx, hnone⟩
    rw [blockChoice_of_no_dispatchable hnone, hctx, List.head?_nil, Option.map_none]

theorem step_of_blockChoice {i : Instr} (htrace : s.trace = []) (h : blockChoice s = some i) : step s = exec i s := by
  have hfetch : fetch s = .own i := by simp only [fetch, htrace, h]
  simp only [step, hfetch]

theorem step_of_quiescent (htrace : s.trace = []) (h : Quiescent s) : step s = .next s := by
  have hfetch : fetch s = .idle := by simp only [fetch, htrace, (blockChoice_eq_none_iff s).mpr h]
  simp only [step, hfetch]

end

/-! ### The statements -/

/-- Settles O21: the spec's conditions are the enabling condition (`irqEnabled_iff`), and the dispatch is one record update. -/
theorem dispatchEntersTheHandlerOfTheSource : Obligations.DispatchEntersTheHandlerOfTheSource := by
  intro s
  have hexec : ∀ x : Source, IrqEnabledBySpec x s → exec x.instr s = .next
      { writePending x false s with ctx := x.entry :: s.ctx, gie := if s.cfg.nesting = true then s.gie else false } := by
    intro x hx
    rw [← takeInterrupt_eq]
    exact exec_sourceInstr_of_irqEnabled ((irqEnabled_iff x s).mpr hx)
  exact ⟨hexec .sck, hexec .cs, hexec .tov⟩

/-- Settles O22: the effect of each of the four is `handlerReturn` of a state with the same `ctx` and `sv`. -/
theorem handlerEndPopsTheFrameAndEnables : Obligations.HandlerEndPopsTheFrameAndEnables := by
  intro s m rest hctx hm
  obtain rfl | rfl | rfl | ⟨rfl, heq⟩ := hm
  · exact ⟨_, exec_micro_of_return hctx rfl (receiveBit_ctx s), rfl, rfl, receiveBit_sv s⟩
  · exact ⟨_, exec_flatch hctx, rfl, rfl, latchFrame_sv s⟩
  · exact ⟨_, exec_urec hctx, rfl, rfl, rfl⟩
  · exact ⟨_, exec_ucmp_of_eq hctx heq, rfl, rfl, rfl⟩

/-- Settles O23: of two sources the later one in a permutation is held back while the earlier one waits; `ANY` holds none back;
and the first dispatchable source of the order is never held back (`irqEnabled_of_find?`). -/
theorem priorityArbitratesAmongWaitingSources : Obligations.PriorityArbitratesAmongWaitingSources := by
  intro s
  refine ⟨fun hperm x y u v hx hy => ?_, fun hany x hx => ?_, fun x hx => ?_⟩
  · obtain ⟨-, -, hwaitsx, hfirstx⟩ := irqEnabledBySpec_of_exec hx
    obtain ⟨-, -, hwaitsy, hfirsty⟩ := irqEnabledBySpec_of_exec hy
    by_contra hne
    obtain hxy | hyx := comesBefore_or_comesBefore hperm hne
    · exact hfirsty x hxy hwaitsx
    · exact hfirstx y hyx hwaitsy
  · exact ⟨_, exec_sourceInstr_of_irqEnabled (irqEnabled_of_prio_any hany hx)⟩
  · obtain ⟨y, hy⟩ := exists_find?_of_dispatchable hx
    exact ⟨y, _, exec_sourceInstr_of_irqEnabled (irqEnabled_of_find? hy)⟩

/-- Settles O24: what could take the request away is RESET or the dispatch, and the dispatch is refused. -/
theorem runningHandlerIsNotReentered : Obligations.RunningHandlerIsNotReentered := by
  intro x s hrunning
  have hrefused := exec_sourceInstr_of_running hrunning
  refine ⟨hrefused, fun i u hpending hreset hexec => ?_⟩
  have hdispatch : i ≠ x.instr := by
    rintro rfl
    exact absurd (hrefused.symm.trans hexec) nofun
  obtain ⟨-, rfl⟩ := (exec_next_iff i s u).mp hexec
  exact pending_effect_of_pending hdispatch hreset hpending

/-- Settles O25: what the dispatch and RESET leave, and `pending_effect_of_pending` for every other operation. -/
theorem pendingFlagsAreClearedByDispatchAndResetOnly : Obligations.PendingFlagsAreClearedByDispatchAndResetOnly := by
  intro x i s u hexec
  obtain ⟨-, rfl⟩ := (exec_next_iff i s u).mp hexec
  constructor
  · rintro (rfl | rfl)
    · rw [effect_sourceInstr, pending_takeInterrupt, if_pos rfl]
    · cases x <;> rfl
  · intro hpending hcleared
    by_contra hother
    obtain ⟨hdispatch, hreset⟩ := not_or.mp hother
    exact absurd (pending_effect_of_pending hdispatch hreset hpending) (by simp [hcleared])

/-- Settles O26: in a quiescent state no dispatch and no micro-operation is enabled, and in any other the block's own choice runs;
a started quiescent block is idle (`Inv.idle`). -/
theorem quiescentMeansNoBlockOperationRuns : Obligations.QuiescentMeansNoBlockOperationRuns := by
  refine ⟨fun s => ⟨?_, ?_⟩, fun s hinv hquiet => ?_⟩
  · rintro ⟨hctx, hnone⟩ i u hagent hexec
    obtain ⟨hen, -⟩ := (exec_next_iff i s u).mp hexec
    obtain ⟨x, rfl⟩ | ⟨m, rfl⟩ := (agent_eq_blk_iff i).mp hagent
    · rw [enabled_sourceInstr] at hen
      exact absurd (dispatchable_of_irqEnabled hen) (by simp [hnone])
    · obtain ⟨rest, hframe⟩ := ctx_of_enabled_microInstr hen
      exact absurd (hctx.symm.trans hframe) nofun
  · intro hstuck
    rw [← blockChoice_eq_none_iff, Option.eq_none_iff_forall_ne_some]
    intro i hchoice
    exact hstuck i _ (agent_of_blockChoice hchoice) (exec_of_enabled (enabled_of_blockChoice hchoice))
  · cases hstarted : s.started with
    | false => exact .inl rfl
    | true =>
      have hidle := hinv.idle hstarted hquiet
      exact .inr ⟨hidle.gie, hidle.served .sck, hidle.served .cs, hidle.served .tov⟩

/-- Settles O7: the step runs the block's own choice, which under `ANY` looks for a dispatchable source in the order SCK, CS,
TOV, then at the top of `ctx`. -/
theorem stepOnAnEmptyTraceFollowsSettle : Obligations.StepOnAnEmptyTraceFollowsSettle := by
  intro s htrace hany
  have horder : prioOrder s.cfg.prio = [.sck, .cs, .tov] := by rw [hany]; rfl
  have hfirst : ∀ x : Source, [.sck, .cs, .tov].find? (fun y => dispatchable y s) = some x → step s = exec x.instr s :=
    fun x hx => step_of_blockChoice htrace (blockChoice_of_find? (horder ▸ hx))
  refine ⟨fun hsck => ?_, fun hsck hcs => ?_, fun hsck hcs htov => ?_, fun m rest hnone hctx => ?_,
    step_of_quiescent htrace, exists_step_next_of_trace_nil htrace⟩
  · exact hfirst .sck (by simp [hsck])
  · exact hfirst .cs (by simp [hsck, hcs])
  · exact hfirst .tov (by simp [hsck, hcs, htov])
  · apply step_of_blockChoice htrace
    rw [blockChoice_of_no_dispatchable hnone, hctx, List.head?_cons, Option.map_some]

end Sys2Proof.Machine
end

section
/-! `settle` ends (60_exceptions.md R162, R163): the operations the block has left to perform are counted by `workLeft`, every
operation it chooses takes some of them away, and where it has no choice left it is quiescent. -/

namespace Sys2Proof.Machine

/-! ### What is left to perform -/

/-- The micro-operations a frame has left to run, at most: UCMP may return at once (43_output_updater.md R120). -/
def frameWork : Micro → Nat
  | .rxbit | .flatch => 1
  | .ucmp => 7
  | .wsave => 6
  | .wcli => 5
  | .whi => 4
  | .wlo => 3
  | .wrest => 2
  | .urec => 1

/-- A request asks for its dispatch and a whole run of its handler. -/
def requestWork (x : Source) (s : State) : Nat := if pending x s = true then frameWork x.entry + 1 else 0

/-- The operations of the block that the frames on `ctx` and the requests ask for, at most. -/
def workLeft (s : State) : Nat :=
  (s.ctx.map frameWork).sum + (requestWork .sck s + requestWork .cs s + requestWork .tov s)

section
variable {s : State} {x : Source} {m : Micro} {rest : List Micro}

/-- A frame has at most the micro-operations of its handler left, counted from the entry. -/
theorem frameWork_le_entry (m : Micro) : frameWork m ≤ frameWork m.handler.entry := by cases m <;> decide

/-- Two operations for SCK, two for CS, eight for TOV: the 12 of 60_exceptions.md R162. -/
theorem requestWork_le (s : State) : requestWork .sck s + requestWork .cs s + requestWork .tov s ≤ 12 := by
  have hle : ∀ x : Source, requestWork x s ≤ frameWork x.entry + 1 := fun x => by
    unfold requestWork
    split <;> omega
  exact Nat.add_le_add (Nat.add_le_add (hle .sck) (hle .cs)) (hle .tov)

/-- One for the Bit Receiver, one for the Frame Latch and seven for the Output Updater: the nine by which `settleBound` exceeds
12 (log 5). -/
theorem frameWork_sum_le_of_one_frame {ctx : List Micro} (h : (ctx.map Micro.handler).Nodup) :
    (ctx.map frameWork).sum ≤ 9 := by
  have hsubset : (ctx.map Micro.handler).toFinset ⊆ [Source.sck, .cs, .tov].toFinset := fun x _ => by
    cases x <;> simp
  calc (ctx.map frameWork).sum
    _ ≤ (ctx.map fun m => frameWork m.handler.entry).sum := List.sum_le_sum fun m _ => frameWork_le_entry m
    _ = ((ctx.map Micro.handler).map fun x => frameWork x.entry).sum := by rw [List.map_map]; rfl
    _ = ∑ x ∈ (ctx.map Micro.handler).toFinset, frameWork x.entry := (List.sum_toFinset _ h).symm
    _ ≤ ∑ x ∈ [Source.sck, .cs, .tov].toFinset, frameWork x.entry := Finset.sum_le_sum_of_subset hsubset
    _ = 9 := by decide

theorem requestWork_takeInterrupt (x y : Source) (s : State) :
    requestWork y (takeInterrupt x s) = if y = x then 0 else requestWork y s := by
  rw [requestWork, pending_takeInterrupt]
  split <;> rfl

/-- A dispatch trades the request for the run of the handler. -/
theorem workLeft_takeInterrupt (h : dispatchable x s = true) : workLeft (takeInterrupt x s) < workLeft s := by
  obtain ⟨-, -, hpending, -⟩ := (dispatchable_iff x s).mp h
  have hrequest : requestWork x s = frameWork x.entry + 1 := if_pos hpending
  simp only [workLeft, requestWork_takeInterrupt, takeInterrupt_ctx, List.map_cons, List.sum_cons]
  cases x with
  | sck | cs | tov =>
    simp only [reduceCtorEq, if_true, if_false]
    omega

/-- The top frame returns or moves on to a micro-operation nearer its end. -/
theorem ctx_effect_microInstr (hctx : s.ctx = m :: rest) :
    (effect m.instr s).ctx = rest ∨ ∃ m' : Micro, (effect m.instr s).ctx = m' :: rest ∧ frameWork m' < frameWork m := by
  have htail : s.ctx.tail = rest := by rw [hctx, List.tail_cons]
  cases m with
  | rxbit | flatch | urec => exact .inl (by simp [Micro.instr, effect, htail])
  | ucmp =>
    have hcompare : (effect .ucmp s).ctx = if s.value = s.oldValue then s.ctx.tail else .wsave :: s.ctx.tail :=
      compareValue_ctx s
    rw [Micro.instr, hcompare, htail]
    split
    · exact .inl rfl
    · exact .inr ⟨.wsave, rfl, by decide⟩
  | wsave | wcli | whi | wlo | wrest => exact .inr ⟨_, congrArg (List.cons _) htail, by decide⟩

theorem workLeft_effect_microInstr (hctx : s.ctx = m :: rest) : workLeft (effect m.instr s) < workLeft s := by
  have hpositive : 0 < frameWork m := by cases m <;> decide
  simp only [workLeft, requestWork, pending_effect_microInstr, hctx, List.map_cons, List.sum_cons]
  obtain hreturn | ⟨m', hnext, hless⟩ := ctx_effect_microInstr hctx
  · rw [hreturn]
    omega
  · rw [hnext, List.map_cons, List.sum_cons]
    omega

/-- Every operation the block chooses takes work away. -/
theorem workLeft_effect_of_blockChoice {i : Instr} (h : blockChoice s = some i) : workLeft (effect i s) < workLeft s := by
  obtain ⟨x, rfl, hx⟩ | ⟨m, rest, rfl, hctx⟩ := blockChoice_cases h
  · rw [effect_sourceInstr]
    exact workLeft_takeInterrupt hx
  · exact workLeft_effect_microInstr hctx

end

/-! ### settle -/

/-- As many operations as there is work left are enough. -/
theorem quiescent_settleFor {n : Nat} {s : State} (h : workLeft s ≤ n) : Quiescent (settleFor n s).2 := by
  induction n generalizing s with
  | zero =>
    refine (blockChoice_eq_none_iff s).mp (Option.eq_none_iff_forall_ne_some.mpr fun i hchoice => ?_)
    have hless := workLeft_effect_of_blockChoice hchoice
    omega
  | succ n ih =>
    cases hchoice : blockChoice s with
    | none =>
      have hquiet := (blockChoice_eq_none_iff s).mp hchoice
      rwa [settleFor_of_quiescent hquiet]
    | some i =>
      have hless := workLeft_effect_of_blockChoice hchoice
      rw [settleFor_succ_of_blockChoice hchoice]
      exact ih (by omega)

/-- What `settle` performs is a valid run of operations of the block, no longer than allowed. -/
theorem settleFor_run (n : Nat) (s : State) :
    (settleFor n s).1.length ≤ n ∧ runOps (settleFor n s).1 s = some (settleFor n s).2 ∧
      ∀ i ∈ (settleFor n s).1, i.agent = .blk := by
  induction n generalizing s with
  | zero => exact ⟨le_refl 0, rfl, nofun⟩
  | succ n ih =>
    cases hchoice : blockChoice s with
    | none =>
      rw [settleFor_of_quiescent ((blockChoice_eq_none_iff s).mp hchoice)]
      exact ⟨Nat.zero_le _, rfl, nofun⟩
    | some i =>
      obtain ⟨hlength, hrun, hagent⟩ := ih (effect i s)
      rw [settleFor_succ_of_blockChoice hchoice]
      refine ⟨Nat.succ_le_succ hlength, ?_, List.forall_mem_cons.mpr ⟨agent_of_blockChoice hchoice, hagent⟩⟩
      exact (runOps_cons_of_exec (exec_of_enabled (enabled_of_blockChoice hchoice)) _).trans hrun

/-! ### The statements -/

/-- Settles O54: with `ctx` empty the work left is that of the requests. -/
theorem settleEndsWithinTwelveOperations : Obligations.SettleEndsWithinTwelveOperations := by
  intro s hctx
  have hwork : workLeft s ≤ 12 := by
    rw [workLeft, hctx, List.map_nil, List.sum_nil, Nat.zero_add]
    exact requestWork_le s
  obtain ⟨hlength, -, -⟩ := settleFor_run 12 s
  exact ⟨quiescent_settleFor hwork, hlength⟩

/-- Settles O55: the invariant allows one frame of each handler, which bounds the work of the frames. -/
theorem settleReachesAQuiescentState : Obligations.SettleReachesAQuiescentState := by
  intro s hinv
  have hwork : workLeft s ≤ settleBound := Nat.add_le_add (frameWork_sum_le_of_one_frame hinv.one_frame) (requestWork_le s)
  obtain ⟨-, hrun, hagent⟩ := settleFor_run settleBound s
  exact ⟨quiescent_settleFor hwork, hrun, hagent⟩

end Sys2Proof.Machine
end

section
/-! RESET and START (70_reset_and_hazards.md R190, R191), and the block between them: nothing is pending and no handler runs, so
the block has no operation to perform (R192). -/

namespace Sys2Proof.Machine

/-- Settles O13: RESET is always enabled, and what it leaves is power-on but for the fields it does not write. -/
theorem resetGivesThePowerOnValuesAndKeepsThePins : Obligations.ResetGivesThePowerOnValuesAndKeepsThePins := by
  intro s
  exact exec_of_enabled (i := .reset) rfl

/-- Settles O14: the enabling condition of START is that the block is not started. -/
theorem startMakesTheBlockLiveOnce : Obligations.StartMakesTheBlockLiveOnce := by
  intro s
  refine ⟨fun hstopped => ?_, fun hstarted => ?_⟩
  · exact exec_of_enabled (i := .start) (by simp [enabled, hstopped])
  · exact exec_of_not_enabled (by simp [enabled, hstarted])

theorem Inv.quiescent_before_start {s : State} (h : Inv s) (hstarted : s.started = false) : Quiescent s := by
  obtain ⟨hserved, hctx, -⟩ := h.before_start hstarted
  exact ⟨hctx, fun x => dispatchable_of_not_pending (hserved x)⟩

/-- Settles O27: before START the block is quiescent, and no operation of a quiescent block is enabled. -/
theorem noBlockOperationRunsBeforeStart : Obligations.NoBlockOperationRunsBeforeStart := by
  intro s i hinv hstarted hagent
  obtain ⟨hquiescent, -⟩ := quiescentMeansNoBlockOperationRuns
  have hstuck := (hquiescent s).mp (hinv.quiescent_before_start hstarted)
  exact exec_of_not_enabled (Bool.eq_false_iff.mpr fun hen => hstuck i _ hagent (exec_of_enabled hen))

end Sys2Proof.Machine
end

section
/-! The well-timed master (70_reset_and_hazards.md R206): an expansion in which every edge that can request a handler is followed
by `settle` is well-timed on an idle block, and `frame w` is one, so a frame that starts with an empty receiver latches its word. -/

namespace Sys2Proof.Machine

/-! ### Well-timed runs -/

section
variable {s t u : State} {i : Instr} {is js : List Instr}

theorem runOps_of_settle (h : settle s = (is, t)) : runOps is s = some t := by
  obtain ⟨-, hrun, -⟩ := settleFor_run settleBound s
  rwa [← settle, h] at hrun

/-- The operations of an expansion are a run from the state it starts in to the state it leaves. -/
theorem runOps_of_runItems {items : List Item} (h : runItems items s = some (is, u)) : runOps is s = some u := by
  induction items generalizing s is with
  | nil =>
    obtain ⟨rfl, rfl⟩ : [] = is ∧ s = u := by simpa [runItems] using h
    rfl
  | cons item items ih =>
    cases item with
    | op i =>
      simp only [runItems] at h
      split at h
      · next t hexec =>
        obtain ⟨⟨ks, v⟩, hks, heq⟩ := Option.map_eq_some_iff.mp h
        cases heq
        exact (runOps_cons ..).mpr ⟨t, hexec, ih hks⟩
      · cases h
      · cases h
    | settle =>
      obtain ⟨⟨ks, v⟩, hks, heq⟩ := Option.map_eq_some_iff.mp h
      cases heq
      exact (runOps_append ..).mpr ⟨_, runOps_of_settle rfl, ih hks⟩

theorem wellTimed_cons_iff (hexec : exec i s = .next t) :
    WellTimed (i :: is) s ↔ (MasterOperation i → RequestsServed s) ∧ WellTimed is t := by
  simp only [WellTimed, hexec]

/-- Two well-timed runs, one after the other. -/
theorem wellTimed_append (hrun : runOps is s = some t) (his : WellTimed is s) (hjs : WellTimed js t) :
    WellTimed (is ++ js) s := by
  induction is generalizing s with
  | nil =>
    obtain rfl : s = t := Option.some.inj hrun
    exact hjs
  | cons i is ih =>
    obtain ⟨v, hexec, hrest⟩ := (runOps_cons ..).mp hrun
    obtain ⟨hserved, his⟩ := (wellTimed_cons_iff hexec).mp his
    exact (wellTimed_cons_iff hexec).mpr ⟨hserved, ih hrest his⟩

theorem not_masterOperation_of_blk (h : i.agent = .blk) : ¬ MasterOperation i := by
  obtain ⟨x, rfl⟩ | ⟨m, rfl⟩ := (agent_eq_blk_iff i).mp h
  · cases x <;> exact not_false
  · cases m <;> exact not_false

/-- The block's own operations are no operations of the master. -/
theorem wellTimed_of_blk (hrun : runOps is s = some t) (his : ∀ i ∈ is, i.agent = .blk) : WellTimed is s := by
  induction is generalizing s with
  | nil => trivial
  | cons i is ih =>
    obtain ⟨hi, his⟩ := List.forall_mem_cons.mp his
    obtain ⟨v, hexec, hrest⟩ := (runOps_cons ..).mp hrun
    exact (wellTimed_cons_iff hexec).mpr ⟨fun hmaster => absurd hmaster (not_masterOperation_of_blk hi), ih hrest his⟩

theorem wellTimed_settle (s : State) : WellTimed (settle s).1 s := by
  obtain ⟨-, hrun, hagent⟩ := settleFor_run settleBound s
  exact wellTimed_of_blk hrun hagent

theorem Idle.requestsServed (h : Idle s) : RequestsServed s :=
  ⟨h.served .sck, h.served .cs, by simp [h.ctx], by simp [h.ctx]⟩

end

/-! ### Expansions that wait for their requests -/

/-- From every idle block the expansion runs, is well-timed, and leaves the block idle with `OCR` as it was. -/
def WaitsForRequests (items : List Item) : Prop :=
  ∀ s : State, Idle s →
    ∃ (is : List Instr) (u : State), runItems items s = some (is, u) ∧ WellTimed is s ∧ Idle u ∧ ocr u = ocr s

theorem WaitsForRequests.append {items rest : List Item} (hitems : WaitsForRequests items) (hrest : WaitsForRequests rest) :
    WaitsForRequests (items ++ rest) := by
  intro s hs
  obtain ⟨is, t, hruni, htimedi, ht, hocri⟩ := hitems s hs
  obtain ⟨js, u, hrunj, htimedj, hu, hocrj⟩ := hrest t ht
  exact ⟨is ++ js, u, runItems_append hruni hrunj, wellTimed_append (runOps_of_runItems hruni) htimedi htimedj, hu,
    hocrj.trans hocri⟩

/-- An operation after which the block is still idle needs no `settle`. -/
theorem waitsForRequests_op {i : Instr}
    (hi : ∀ s : State, Idle s → ∃ u : State, exec i s = .next u ∧ Idle u ∧ ocr u = ocr s) : WaitsForRequests [.op i] := by
  intro s hs
  obtain ⟨u, hexec, hu, hocr⟩ := hi s hs
  exact ⟨[i], u, runItems_op_cons hexec rfl, (wellTimed_cons_iff hexec).mpr ⟨fun _ => hs.requestsServed, trivial⟩, hu, hocr⟩

/-- An operation whose requests `settle` serves. -/
theorem waitsForRequests_op_settle {i : Instr}
    (hi : ∀ s : State, Idle s → ∃ t : State, exec i s = .next t ∧ Idle (settle t).2 ∧ ocr (settle t).2 = ocr s) :
    WaitsForRequests [.op i, .settle] := by
  intro s hs
  obtain ⟨t, hexec, hu, hocr⟩ := hi s hs
  refine ⟨i :: ((settle t).1 ++ []), _, runItems_op_cons hexec (runItems_settle_cons rfl rfl), ?_, hu, hocr⟩
  rw [List.append_nil]
  exact (wellTimed_cons_iff hexec).mpr ⟨fun _ => hs.requestsServed, wellTimed_settle t⟩

theorem waitsForRequests_sdi (d : Level) : WaitsForRequests [.op (.sdi d)] :=
  waitsForRequests_op fun _ hs => ⟨_, exec_of_enabled rfl, hs.pinWrite .sdi d, rfl⟩

/-- A falling edge, or no edge, requests nothing. -/
theorem effect_sck_false (s : State) : effect (.sck false) s = pinWrite .sck false s := by
  rw [effect, risingEdge, Bool.and_false, request_false]

theorem waitsForRequests_sck_false : WaitsForRequests [.op (.sck false)] :=
  waitsForRequests_op fun s hs =>
    ⟨_, exec_of_enabled rfl, effect_sck_false s ▸ hs.pinWrite .sck false, effect_sck_false s ▸ rfl⟩

theorem pinWrite_request (p : Pin) (l : Level) (x : Source) (b : Bool) (s : State) :
    pinWrite p l (request x b s) = request x b (pinWrite p l s) := by
  cases p <;> cases x <;> rfl

theorem ocr_pinWrite (p : Pin) (l : Level) (s : State) : ocr (pinWrite p l s) = ocr s := by simp [ocr]

/-- A request of the Bit Receiver or of the Frame Latch, made or not, ends in an idle block; neither handler writes `OCR`. -/
theorem idle_settle_request {s : State} {x : Source} (h : Idle s) (hx : x ≠ .tov) (b : Bool) :
    Idle (settle (request x b s)).2 ∧ ocr (settle (request x b s)).2 = ocr s := by
  cases b with
  | false =>
    rw [request_false, settle_of_quiescent h.quiescent]
    exact ⟨h, rfl⟩
  | true =>
    rw [request_true x h.started]
    cases x with
    | sck =>
      rw [settle_of_request_sck h]
      exact ⟨h.receiveBit, by simp [ocr]⟩
    | cs =>
      rw [settle_of_request_cs h]
      exact ⟨h.latchFrame, by simp [ocr]⟩
    | tov => exact absurd rfl hx

theorem waitsForRequests_sck_settle (l : Level) : WaitsForRequests [.op (.sck l), .settle] :=
  waitsForRequests_op_settle fun s hs => by
    refine ⟨_, exec_of_enabled rfl, ?_⟩
    rw [effect, pinWrite_request, ← ocr_pinWrite .sck l s]
    exact idle_settle_request (hs.pinWrite .sck l) (by decide) _

theorem waitsForRequests_csn_settle (l : Level) : WaitsForRequests [.op (.csn l), .settle] :=
  waitsForRequests_op_settle fun s hs => by
    refine ⟨_, exec_of_enabled rfl, ?_⟩
    rw [effect, pinWrite_request, ← ocr_pinWrite .csN l s]
    exact idle_settle_request (hs.pinWrite .csN l) (by decide) _

theorem waitsForRequests_clkItems (d : Level) : WaitsForRequests (clkItems d) :=
  (waitsForRequests_sdi d).append ((waitsForRequests_sck_settle true).append waitsForRequests_sck_false)

theorem waitsForRequests_clknItems (n : Nat) (w : Word) : WaitsForRequests (clknItems n w) := by
  induction n with
  | zero => exact fun s hs => ⟨[], s, rfl, trivial, hs, rfl⟩
  | succ n ih => exact (waitsForRequests_clkItems _).append ih

/-- `frame w` is well-timed from every idle block, whatever the receiver holds (70_reset_and_hazards.md R206). -/
theorem waitsForRequests_frame (w : Word) : WaitsForRequests (pseudoItems (.frame w)) :=
  ((waitsForRequests_csn_settle false).append (waitsForRequests_clknItems 16 w)).append (waitsForRequests_csn_settle true)

/-- Settles O57: the assertion finds an empty receiver, which no FLATCH changes, so the 16 levels of the word are the frame; and
`frame` waits for its requests. -/
theorem frameLatchesTheWordSent : Obligations.FrameLatchesTheWordSent := by
  intro s w hinv hstarted hquiet hsck hbits
  have hidle := hinv.idle hstarted hquiet
  have hfits : ReceiveFits s := ⟨hinv.bits_le, hinv.receive_lt⟩
  have hempty : s.receive.toNat = 0 := by
    have hlt := hfits.receive_lt
    rw [hbits] at hlt
    omega
  have hlatch : latchFrame s = s := latchFrame_of_empty (BitVec.eq_of_toNat_eq hempty) (BitVec.eq_of_toNat_eq hbits)
  obtain ⟨is, u, hrun, hvalue, hreceive, hcount⟩ := exists_runPseudo_frame hidle hsck hfits hlatch w
  obtain ⟨is', u', hrun', htimed, hidle', hocr⟩ := waitsForRequests_frame w s hidle
  obtain ⟨rfl, rfl⟩ : is = is' ∧ u = u' := by simpa using hrun.symm.trans hrun'
  rw [levelsValue_take_stale hfits.bits_le hfits.receive_lt, hbits, hempty] at hvalue
  exact ⟨is, u, hrun, htimed, BitVec.eq_of_toNat_eq (by simpa using hvalue), hreceive, hcount, hocr, hidle'.quiescent⟩

end Sys2Proof.Machine
end

section
/-! Hazards of a master that does not wait (70_reset_and_hazards.md R194, R196): two edges of `SCK` with no dispatch between share
one run of the Bit Receiver, and a 16th edge served after the release is not taken. -/

namespace Sys2Proof.Machine

/-! ### A handler run beside other requests -/

section
variable {s v : State} {x : Source}

/-- A dispatch with no handler running enters the one dispatched; other sources may be pending. -/
theorem takeInterrupt_of_irqEnabled (hctx : s.ctx = []) (hen : irqEnabled x s = true) :
    takeInterrupt x s = entered x (writePending x false s) := by
  obtain ⟨-, hgie, -⟩ := (irqEnabled_iff x s).mp hen
  rw [takeInterrupt_eq, entered, hctx, hgie, writePending_cfg]
  simp

theorem handlerReturn_entered_of_ctx_nil (hctx : v.ctx = []) (hgie : v.gie = true) : handlerReturn (entered x v) = v := by
  calc handlerReturn (entered x v) = { v with ctx := [], gie := true } := rfl
    _ = v := by rw [← hctx, ← hgie]

/-- A handler whose entry micro-operation returns, from dispatch to return. -/
theorem runOps_dispatch_entry (hctx : s.ctx = []) (hen : irqEnabled x s = true) (hvctx : v.ctx = s.ctx) (hvgie : v.gie = s.gie)
    (hbody : effect x.entry.instr (entered x (writePending x false s)) = handlerReturn (entered x v)) :
    runOps [x.instr, x.entry.instr] s = some v := by
  obtain ⟨-, hgie, -⟩ := (irqEnabled_iff x s).mp hen
  have hdispatch := exec_sourceInstr_of_irqEnabled hen
  rw [takeInterrupt_of_irqEnabled hctx hen] at hdispatch
  rw [handlerReturn_entered_of_ctx_nil (hvctx.trans hctx) (hvgie.trans hgie)] at hbody
  have hentry : exec x.entry.instr (entered x (writePending x false s)) = .next v := hbody ▸ exec_microInstr rfl
  exact (runOps_cons_of_exec hdispatch _).trans (runOps_cons_of_exec hentry _)

theorem runOps_bitReceiver (hctx : s.ctx = []) (hen : irqEnabled .sck s = true) :
    runOps [.irqSck, .rxbit] s = some (receiveBit (writePending .sck false s)) :=
  runOps_dispatch_entry hctx hen (by simp) (by simp) (congrArg handlerReturn (receiveBit_entered .sck _))

theorem runOps_frameLatch (hctx : s.ctx = []) (hen : irqEnabled .cs s = true) :
    runOps [.irqCs, .flatch] s = some (latchFrame (writePending .cs false s)) :=
  runOps_dispatch_entry hctx hen (by simp) (by simp) (congrArg handlerReturn (latchFrame_entered .cs _))

end

/-! ### Both requests pending -/

section
variable {s : State}

/-- The requests of SCK and CS, both made and neither dispatched. -/
def bothRequested (s : State) : State := writePending .sck true (writePending .cs true s)

/-- The branches of FLATCH are not on a pending flag. -/
theorem latchFrame_writePending (x : Source) (v : Level) (s : State) :
    latchFrame (writePending x v s) = writePending x v (latchFrame s) := by
  unfold latchFrame
  rw [apply_ite (writePending x v), apply_ite (writePending x v)]
  cases x <;> rfl

/-- A request made and withdrawn. -/
theorem writePending_false_true {x : Source} (h : pending x s = false) : writePending x false (writePending x true s) = s :=
  h ▸ writePending_writePending_self x true s

theorem irqEnabled_bothRequested (h : Idle s) (hany : s.cfg.prio = .any) {x : Source} (hx : x ≠ .tov) :
    irqEnabled x (bothRequested s) = true := by
  refine irqEnabled_of_prio_any (by simpa [bothRequested] using hany) ((dispatchable_iff ..).mpr ?_)
  cases x with
  | sck | cs => simp [bothRequested, h.started, h.gie, h.ctx]
  | tov => exact absurd rfl hx

/-- With chip-select released the Bit Receiver takes no bit, so in either order only the Frame Latch has an effect. -/
theorem runOps_bothRequested (h : Idle s) (hany : s.cfg.prio = .any) (hcs : s.csN = true) :
    runOps [.irqSck, .rxbit, .irqCs, .flatch] (bothRequested s) = some (latchFrame s) ∧
      runOps [.irqCs, .flatch, .irqSck, .rxbit] (bothRequested s) = some (latchFrame s) := by
  have hctx : (bothRequested s).ctx = [] := by simpa [bothRequested] using h.ctx
  have hsckServed : writePending .sck false (bothRequested s) = writePending .cs true s :=
    writePending_false_true (s := writePending .cs true s) (h.served .sck)
  have hcsServed : writePending .cs false (bothRequested s) = writePending .sck true s :=
    congrArg (writePending .sck true) (writePending_false_true (h.served .cs) : _ = s)
  have hignored : ∀ u : State, u.csN = s.csN → receiveBit u = u := fun u hu => receiveBit_of_ignores (.inl (hu.trans hcs))
  have hbitFirst := runOps_bitReceiver hctx (irqEnabled_bothRequested h hany (by decide))
  rw [hsckServed, hignored _ (by simp)] at hbitFirst
  have hlatchSecond := runOps_of_settle (settle_of_request_cs h)
  have hlatchFirst := runOps_frameLatch hctx (irqEnabled_bothRequested h hany (by decide))
  rw [hcsServed, latchFrame_writePending] at hlatchFirst
  have hbitSecond := runOps_of_settle (settle_of_request_sck h.latchFrame)
  rw [hignored _ (by simp)] at hbitSecond
  exact ⟨(runOps_append [.irqSck, .rxbit] _ _ _).mpr ⟨_, hbitFirst, hlatchSecond⟩,
    (runOps_append [.irqCs, .flatch] _ _ _).mpr ⟨_, hlatchFirst, hbitSecond⟩⟩

end

/-! ### Edges that request -/

theorem effect_sck_true {s : State} (hstarted : s.started = true) (hsck : s.sck = false) :
    effect (.sck true) s = writePending .sck true (pinWrite .sck true s) := by
  have hedge : risingEdge (pinRead .sck s) true = true := (risingEdge_iff _ _).mpr ⟨hsck, rfl⟩
  rw [effect, hedge, request_true .sck hstarted]
  rfl

theorem effect_csn_true {s : State} (hstarted : s.started = true) (hcs : s.csN = false) :
    effect (.csn true) s = writePending .cs true (pinWrite .csN true s) := by
  have hedge : chipSelectRequests s.cfg.csSense (pinRead .csN s) true = true :=
    (chipSelectRequests_iff _ _ _).mpr (.inl ⟨hcs, rfl⟩)
  rw [effect, hedge, request_true .cs hstarted]
  rfl

/-! ### The statements -/

/-- Settles O59: in either order only FLATCH has an effect, and it finds the 15 bits. -/
theorem sixteenthEdgePendingWithTheReleaseLosesTheFrame :
    Obligations.SixteenthEdgePendingWithTheReleaseLosesTheFrame := by
  intro s hinv hstarted hquiet hany hcs hsck hbits
  have hlines : Idle (pinWrite .csN true (pinWrite .sck true s)) :=
    ((hinv.idle hstarted hquiet).pinWrite .sck true).pinWrite .csN true
  have hevents : runOps [.sck true, .csn true] s = some (bothRequested (pinWrite .csN true (pinWrite .sck true s))) := by
    rw [runOps_pair_of_events (by simp [eventLine]) (by simp [eventLine]), effect_sck_true hstarted hsck,
      effect_csn_true (by simpa using hstarted) (by simpa using hcs)]
    rfl
  obtain ⟨hbitFirst, hlatchFirst⟩ := runOps_bothRequested hlines (by simpa using hany) rfl
  refine ⟨_, (runOps_append [.sck true, .csn true] _ _ _).mpr ⟨_, hevents, hbitFirst⟩,
    (runOps_append [.sck true, .csn true] _ _ _).mpr ⟨_, hevents, hlatchFirst⟩, ?_⟩
  have hshort : ¬ s.bits = fullCount := fun hfull => by simp [hfull, fullCount] at hbits
  cases hcfg : s.cfg.resetOnDiscard with
  | true => simp [hshort, hcfg]
  | false => simp [hshort, hcfg, hbits]

/-- Settles O60: the second edge finds the request of the first still pending, so one RXBIT serves both and leaves an idle
block. -/
theorem undispatchedClockEdgesCoalesce : Obligations.UndispatchedClockEdgesCoalesce := by
  intro s hinv hstarted hquiet hsck
  have hhigh : Idle (pinWrite .sck true s) := (hinv.idle hstarted hquiet).pinWrite .sck true
  have hevents : runOps [.sck true, .sck false, .sck true] s = some (writePending .sck true (pinWrite .sck true s)) := by
    refine (runOps_append [.sck true, .sck false] [.sck true] ..).mpr
      ⟨_, runOps_pair_of_events (by simp [eventLine]) (by simp [eventLine]) s, ?_⟩
    rw [effect_sck_true hstarted hsck, effect_sck_false]
    refine (runOps_cons ..).mpr ⟨_, exec_of_enabled rfl, ?_⟩
    rw [effect_sck_true (by simpa using hstarted) (by simp)]
    rfl
  have hserved : Idle (receiveBit (pinWrite .sck true s)) := hhigh.receiveBit
  obtain ⟨hquiescent, -⟩ := quiescentMeansNoBlockOperationRuns
  refine ⟨_, (runOps_append [.sck true, .sck false, .sck true] _ _ _).mpr
    ⟨_, hevents, runOps_of_settle (settle_of_request_sck hhigh)⟩, hserved.served .sck, ?_,
    fun v => (hquiescent _).mp hserved.quiescent .irqSck v rfl⟩
  rw [receiveBit_bits, pinWrite_bits]
  split_ifs
  · rw [count_succ_eq_ofNat, BitVec.toNat_ofNat]
    exact Nat.mod_le _ _
  · exact Nat.le_succ _

end Sys2Proof.Machine
end

section
/-! Nesting as the adversarial setting (92_eei_decisions.md D3): with `NESTING`, and with `GIE` 1 wherever it was 1, every operation
stays enabled and has the same effect but for `GIE` and `sv`. -/

namespace Sys2Proof.Machine

/-- The state under `NESTING = true`, with `GIE` and `sv` given. -/
def withEnables (g v : Level) (s : State) : State :=
  { s with cfg := { s.cfg with nesting := true }, gie := g, sv := v }

theorem sameButEnables_iff (s s' : State) : SameButEnables s s' ↔ ∃ g v : Level, s' = withEnables g v s := by
  constructor
  · exact fun h => ⟨s'.gie, s'.sv, h⟩
  · rintro ⟨g, v, rfl⟩
    rfl

/-! ### What an operation needs -/

section
variable {s s' : State}

/-- Of the fields that may differ only `GIE` is a condition of a dispatch: condition (b) of 60_exceptions.md R156. -/
theorem irqEnabled_of_sameButEnables {x : Source} (hsame : SameButEnables s s') (hgie : s.gie = true → s'.gie = true)
    (hen : irqEnabled x s = true) : irqEnabled x s' = true := by
  obtain ⟨hstarted, hs, hwaiting⟩ := (irqEnabled_iff x s).mp hen
  obtain ⟨g, v, rfl⟩ := (sameButEnables_iff s s').mp hsame
  exact (irqEnabled_iff x _).mpr ⟨hstarted, hgie hs, hwaiting⟩

/-- No other operation has a condition on these fields. -/
theorem enabled_of_sameButEnables {i : Instr} (hsame : SameButEnables s s') (hgie : s.gie = true → s'.gie = true)
    (hen : enabled i s = true) : enabled i s' = true := by
  cases i with
  | irqSck => exact irqEnabled_of_sameButEnables (x := .sck) hsame hgie hen
  | irqCs => exact irqEnabled_of_sameButEnables (x := .cs) hsame hgie hen
  | irqTov => exact irqEnabled_of_sameButEnables (x := .tov) hsame hgie hen
  | _ =>
    obtain ⟨g, v, rfl⟩ := (sameButEnables_iff s s').mp hsame
    exact hen

/-- Under the invariant `GIE` is 1 with nesting wherever it is 1 without: after START and outside the critical section. -/
theorem Inv.gie_of_sameButEnables (h : Inv s) (h' : Inv s') (hsame : SameButEnables s s') (hgie : s.gie = true) :
    s'.gie = true := by
  obtain ⟨hstarted, hcritical, -⟩ := h.gie_iff.mp hgie
  obtain ⟨g, v, rfl⟩ := (sameButEnables_iff s s').mp hsame
  exact h'.gie_iff.mpr ⟨hstarted, hcritical, .inl rfl⟩

end

/-! ### What an operation leaves -/

theorem compareValue_of_eq {s : State} (h : s.value = s.oldValue) : compareValue s = handlerReturn { s with t := s.value } :=
  if_pos h

theorem compareValue_of_ne {s : State} (h : s.value ≠ s.oldValue) : compareValue s = setPc .wsave { s with t := s.value } :=
  if_neg h

section
variable (g v : Level) (s : State)

/-- A dispatch branches on `NESTING`, and only for `GIE`. -/
theorem takeInterrupt_withEnables (x : Source) : takeInterrupt x (withEnables g v s) = withEnables g v (takeInterrupt x s) := by
  rw [takeInterrupt_eq, takeInterrupt_eq]
  cases x <;> rfl

theorem receiveBit_withEnables : receiveBit (withEnables g v s) = withEnables g v (receiveBit s) := by
  unfold receiveBit
  rw [apply_ite (withEnables g v)]
  rfl

theorem latchFrame_withEnables : latchFrame (withEnables g v s) = withEnables g v (latchFrame s) := by
  unfold latchFrame
  rw [apply_ite (withEnables g v), apply_ite (withEnables g v)]
  rfl

/-- UCMP takes the same branch in both states, and sets `GIE` only where it returns. -/
theorem compareValue_withEnables :
    compareValue (withEnables g v s) = withEnables (if s.value = s.oldValue then true else g) v (compareValue s) := by
  by_cases heq : s.value = s.oldValue
  · rw [if_pos heq, compareValue_of_eq heq, compareValue_of_eq (s := withEnables g v s) heq]
    rfl
  · rw [if_neg heq, compareValue_of_ne heq, compareValue_of_ne (s := withEnables g v s) heq]
    rfl

/-- No effect carries `NESTING`, `GIE` or `sv` over to another field. -/
theorem sameButEnables_effect (i : Instr) : SameButEnables (effect i s) (effect i (withEnables g v s)) := by
  rw [sameButEnables_iff]
  cases i with
  | irqSck => exact ⟨g, v, takeInterrupt_withEnables g v s .sck⟩
  | irqCs => exact ⟨g, v, takeInterrupt_withEnables g v s .cs⟩
  | irqTov => exact ⟨g, v, takeInterrupt_withEnables g v s .tov⟩
  | rxbit => exact ⟨true, v, congrArg handlerReturn (receiveBit_withEnables g v s)⟩
  | flatch => exact ⟨true, v, congrArg handlerReturn (latchFrame_withEnables g v s)⟩
  | ucmp => exact ⟨_, v, compareValue_withEnables g v s⟩
  | reset => exact ⟨false, false, rfl⟩
  | start | urec => exact ⟨true, v, rfl⟩
  | wsave => exact ⟨g, g, rfl⟩
  | wcli => exact ⟨false, v, rfl⟩
  | wrest => exact ⟨v, v, rfl⟩
  | sdi | sck | csn | tov | whi | wlo => exact ⟨g, v, rfl⟩

end

/-! ### The statement -/

/-- Settles O53: the operation is enabled in the second state too, and no effect carries the difference to another field. -/
theorem nestingSimulatesNoNesting : Obligations.NestingSimulatesNoNesting := by
  intro i s s' u hinv hinv' _ hsame hexec
  obtain ⟨hen, rfl⟩ := (exec_next_iff i s u).mp hexec
  have hen' : enabled i s' = true := enabled_of_sameButEnables hsame (hinv.gie_of_sameButEnables hinv' hsame) hen
  obtain ⟨g, v, rfl⟩ := (sameButEnables_iff s s').mp hsame
  exact ⟨_, exec_of_enabled hen', sameButEnables_effect g v s i⟩

end Sys2Proof.Machine
end
